-- ==== Sys2Proof/Word.lean ====
section
/-! DEFINITION. The word types of GoChip8 CORE: a byte (a V register, a timer, a memory cell), a 16-bit word
(an instruction, PC, I, a stack entry) and the number of a general register. -/

namespace Sys2Proof

/-- 8 bits: a V register (R21), a timer (R29, R30), one memory cell (R51). All values are unsigned (R11). -/
abbrev Byte := BitVec 8

/-- 16 bits: an instruction word (R80), `PC` (R25), `I` (R24), one stack entry (R27). -/
abbrev Word := BitVec 16

/-- A register number 0 to 15: every index an instruction can encode names a register that exists (R21).
Also a key number (R32, R239). -/
abbrev Reg := Fin 16

/-- The name `VF` of register 15, the only flag the hardware has (R23). -/
abbrev VF : Reg := 15

end Sys2Proof
end

