-- ==== Sys2Proof/Config.lean ====
section
/-! DEFINITION. What is fixed for the hardware (the sizes of R6 and R7), the one selectable parameter of a session (R9),
and the one free value (the random byte, R10). -/

namespace Sys2Proof

/-- `MEM_SIZE` (R7): 4096 bytes, addresses 0x000 to 0xFFF (R51). -/
abbrev memSize : Nat := 4096

/-- `STACK_DEPTH` (R7): 16 return addresses (R27). -/
abbrev stackDepth : Nat := 16

/-- `FB_W` (R7): 64 columns (R31). -/
abbrev fbWidth : Nat := 64

/-- `FB_H` (R7): 32 rows (R31). -/
abbrev fbHeight : Nat := 32

/-- `PROG_BASE` (R7): where LOAD puts the image and where `PC` starts (R52, R261). -/
abbrev progBase : Nat := 0x200

/-- `MAX_IMAGE` (R7): 4096 - 0x200 = 3584 bytes (R242). -/
abbrev maxImage : Nat := 3584

/-- The one selectable behaviour of R9, constant for a session (R244 calls it a strap). DESIGN CHOICE, log 5: a state
carries its `Config`, which no command changes. -/
structure Config where
  /-- `SHIFT_USES_VY`: false (the default) shifts `Vx` in place, true shifts `Vy` into `Vx` (R9, R159, R161). -/
  shiftUsesVy : Bool
deriving DecidableEq, Repr

/-- `draw8()` (R10, R12): the byte the environment supplies to the n-th RND of a session, under no law (R162, D18).
A FREE VALUE (log 6): no body, so nothing can be proved of it. -/
opaque Config.drawByte : Nat → Byte

end Sys2Proof
end

