-- ==== Sys2Proof/Syntax.lean ====
section
/-! DEFINITION. The 33 instructions of R85, one constructor per row of spec/opcode_table.json, in the table's order. -/

namespace Sys2Proof

/-- An instruction with its operand fields (R81, R83). Register fields are register numbers, `kk` is an unsigned byte,
`nnn` a 12-bit absolute address, `n` the height of a sprite (a count; 0 to 15 when well formed). -/
inductive Instr where
  /-- 00E0 CLS (R201) -/
  | cls
  /-- 00EE RET (R130) -/
  | ret
  /-- 1nnn JP nnn (R131) -/
  | jpNnn (nnn : BitVec 12)
  /-- 2nnn CALL nnn (R132) -/
  | callNnn (nnn : BitVec 12)
  /-- 3xkk SE Vx, kk (R133) -/
  | seVxKk (x : Reg) (kk : Byte)
  /-- 4xkk SNE Vx, kk (R134) -/
  | sneVxKk (x : Reg) (kk : Byte)
  /-- 5xy0 SE Vx, Vy (R135) -/
  | seVxVy (x y : Reg)
  /-- 6xkk LD Vx, kk (R151) -/
  | ldVxKk (x : Reg) (kk : Byte)
  /-- 7xkk ADD Vx, kk (R152) -/
  | addVxKk (x : Reg) (kk : Byte)
  /-- 8xy0 LD Vx, Vy (R153) -/
  | ldVxVy (x y : Reg)
  /-- 8xy1 OR Vx, Vy (R154) -/
  | orVxVy (x y : Reg)
  /-- 8xy2 AND Vx, Vy (R155) -/
  | andVxVy (x y : Reg)
  /-- 8xy3 XOR Vx, Vy (R156) -/
  | xorVxVy (x y : Reg)
  /-- 8xy4 ADD Vx, Vy (R157) -/
  | addVxVy (x y : Reg)
  /-- 8xy5 SUB Vx, Vy (R158) -/
  | subVxVy (x y : Reg)
  /-- 8xy6 SHR Vx, Vy (R159); `y` is decoded but ignored when `SHIFT_USES_VY` is false (R83) -/
  | shrVxVy (x y : Reg)
  /-- 8xy7 SUBN Vx, Vy (R160) -/
  | subnVxVy (x y : Reg)
  /-- 8xyE SHL Vx, Vy (R161); `y` as for SHR -/
  | shlVxVy (x y : Reg)
  /-- 9xy0 SNE Vx, Vy (R136) -/
  | sneVxVy (x y : Reg)
  /-- Annn LD I, nnn (R180) -/
  | ldINnn (nnn : BitVec 12)
  /-- Bnnn JP V0, nnn (R137) -/
  | jpV0Nnn (nnn : BitVec 12)
  /-- Cxkk RND Vx, kk (R162) -/
  | rndVxKk (x : Reg) (kk : Byte)
  /-- Dxyn DRW Vx, Vy, n (R202) -/
  | drwVxVyN (x y : Reg) (n : Nat)
  /-- Ex9E SKP Vx (R210) -/
  | skpVx (x : Reg)
  /-- ExA1 SKNP Vx (R211) -/
  | sknpVx (x : Reg)
  /-- Fx07 LD Vx, DT (R212) -/
  | ldVxDt (x : Reg)
  /-- Fx15 LD DT, Vx (R213) -/
  | ldDtVx (x : Reg)
  /-- Fx18 LD ST, Vx (R214) -/
  | ldStVx (x : Reg)
  /-- Fx1E ADD I, Vx (R181) -/
  | addIVx (x : Reg)
  /-- Fx29 LD F, Vx (R182) -/
  | ldFVx (x : Reg)
  /-- Fx33 LD B, Vx (R183) -/
  | ldBVx (x : Reg)
  /-- Fx55 LD [I], Vx (R184) -/
  | ldMemVx (x : Reg)
  /-- Fx65 LD Vx, [I] (R185) -/
  | ldVxMem (x : Reg)
deriving DecidableEq, Repr

end Sys2Proof
end

