-- ==== Sys2Proof/Decode.lean ====
section
/-! DEFINITION. Decoding and encoding of instruction words (30_encoding.md R80 to R91), kept apart from the meanings
(R89). The bit patterns are the spec's, which marks them as general knowledge (UNVERIFIED, log 1). After the decoder
stand the encoder and the opcode map of R85 as a table of masks and patterns. -/

namespace Sys2Proof

/-! ### Fields of a word (R81) -/

/-- `op = w[15:12]`, the major opcode. -/
def opField (w : Word) : BitVec 4 := w.extractLsb' 12 4

/-- `x = w[11:8]`, the first register index. -/
def xField (w : Word) : Reg := (w.extractLsb' 8 4).toFin

/-- `y = w[7:4]`, the second register index. -/
def yField (w : Word) : Reg := (w.extractLsb' 4 4).toFin

/-- `n = w[3:0]`, the small immediate or minor opcode. -/
def nField (w : Word) : BitVec 4 := w.extractLsb' 0 4

/-- `kk = w[7:0]`, the byte immediate or minor opcode. -/
def kkField (w : Word) : Byte := w.extractLsb' 0 8

/-- `nnn = w[11:0]`, the address. -/
def nnnField (w : Word) : BitVec 12 := w.extractLsb' 0 12

/-! ### The decoder -/

/-- The instruction a word encodes, by major and then minor opcode (R84 to R88); `none` for the illegal words of R90.
Decoding is strict (D4, log 18): `5xy1` is no synonym of `5xy0`; `Fx0A` and `0nnn` are illegal (R91). -/
def decodeWord (w : Word) : Option Instr :=
  match (opField w).toNat with
  | 0x0 => if w = 0x00E0#16 then some .cls else if w = 0x00EE#16 then some .ret else none
  | 0x1 => some (.jpNnn (nnnField w))
  | 0x2 => some (.callNnn (nnnField w))
  | 0x3 => some (.seVxKk (xField w) (kkField w))
  | 0x4 => some (.sneVxKk (xField w) (kkField w))
  | 0x5 => if nField w = 0#4 then some (.seVxVy (xField w) (yField w)) else none
  | 0x6 => some (.ldVxKk (xField w) (kkField w))
  | 0x7 => some (.addVxKk (xField w) (kkField w))
  | 0x8 =>
    match (nField w).toNat with
    | 0x0 => some (.ldVxVy (xField w) (yField w))
    | 0x1 => some (.orVxVy (xField w) (yField w))
    | 0x2 => some (.andVxVy (xField w) (yField w))
    | 0x3 => some (.xorVxVy (xField w) (yField w))
    | 0x4 => some (.addVxVy (xField w) (yField w))
    | 0x5 => some (.subVxVy (xField w) (yField w))
    | 0x6 => some (.shrVxVy (xField w) (yField w))
    | 0x7 => some (.subnVxVy (xField w) (yField w))
    | 0xE => some (.shlVxVy (xField w) (yField w))
    | _ => none
  | 0x9 => if nField w = 0#4 then some (.sneVxVy (xField w) (yField w)) else none
  | 0xA => some (.ldINnn (nnnField w))
  | 0xB => some (.jpV0Nnn (nnnField w))
  | 0xC => some (.rndVxKk (xField w) (kkField w))
  | 0xD => some (.drwVxVyN (xField w) (yField w) (nField w).toNat)
  | 0xE =>
    match (kkField w).toNat with
    | 0x9E => some (.skpVx (xField w))
    | 0xA1 => some (.sknpVx (xField w))
    | _ => none
  | 0xF =>
    match (kkField w).toNat with
    | 0x07 => some (.ldVxDt (xField w))
    | 0x15 => some (.ldDtVx (xField w))
    | 0x18 => some (.ldStVx (xField w))
    | 0x1E => some (.addIVx (xField w))
    | 0x29 => some (.ldFVx (xField w))
    | 0x33 => some (.ldBVx (xField w))
    | 0x55 => some (.ldMemVx (xField w))
    | 0x65 => some (.ldVxMem (xField w))
    | _ => none
  | _ => none

/-- Two bytes as a word, the byte at the lower address in the high half (R55). -/
def wordOfBytes (hi lo : Byte) : Word := hi ++ lo

/-- The byte of a word that lies at the lower address, `w[15:8]` (R55). -/
def highByte (w : Word) : Byte := w.extractLsb' 8 8

/-- The byte of a word that lies at the higher address, `w[7:0]` (R55). -/
def lowByte (w : Word) : Byte := w.extractLsb' 0 8

/-- Why bytes are not an instruction. -/
inductive Reject where
  /-- fewer than the two bytes of an instruction (R80) -/
  | truncated
  /-- the word matches no row of R85 (R90) -/
  | unknownInstruction (w : Word)
deriving DecidableEq, Repr

/-- What the decoder answers on a byte stream. -/
inductive Decoded where
  /-- an instruction and the bytes after it -/
  | instr (i : Instr) (rest : List Byte)
  /-- no instruction, and why -/
  | rejected (r : Reject)
deriving DecidableEq, Repr

/-- Decode the first instruction of any byte stream; total (R84), rejecting by name. -/
def decode : List Byte → Decoded
  | hi :: lo :: rest =>
    match decodeWord (wordOfBytes hi lo) with
    | some i => .instr i rest
    | none => .rejected (.unknownInstruction (wordOfBytes hi lo))
  | _ => .rejected .truncated

/-- The bytes of a table word as memory holds them: one 16-bit word (R80), high byte first (R55). -/
def tableBytes (nbits w : Nat) : List Byte :=
  [highByte (BitVec.ofNat 16 (w % 2 ^ nbits)), lowByte (BitVec.ofNat 16 (w % 2 ^ nbits))]

/-- The instruction the decoder reads from a word numbered as spec/opcode_table.json numbers it. -/
def decodeTableWord (nbits w : Nat) : Option Instr :=
  match decode (tableBytes nbits w) with
  | .instr i _ => some i
  | .rejected _ => none

/-! ### The encoder: the six formats of R82 -/

/-- The 4 bits of a register field. -/
def regBits (r : Reg) : BitVec 4 := BitVec.ofFin r

/-- Format A: `op nnn nnn nnn`. -/
def formatA (op : BitVec 4) (nnn : BitVec 12) : Word := op ++ nnn

/-- Format RI: `op x kk kk`. -/
def formatRI (op : BitVec 4) (x : Reg) (kk : Byte) : Word := (op ++ regBits x : Byte) ++ kk

/-- Format RRN: `op x y n`; with a fixed `n` it is format RR, `op x y minor`. -/
def formatRRN (op : BitVec 4) (x y : Reg) (n : BitVec 4) : Word := (op ++ regBits x : Byte) ++ (regBits y ++ n : Byte)

/-- The word of a well-formed instruction, from the patterns of R85. Format R (`op x minor minor`) is format RI with
the minor opcode in the place of `kk`. -/
def encode : Instr → Word
  | .cls => 0x00E0#16
  | .ret => 0x00EE#16
  | .jpNnn nnn => formatA 0x1#4 nnn
  | .callNnn nnn => formatA 0x2#4 nnn
  | .seVxKk x kk => formatRI 0x3#4 x kk
  | .sneVxKk x kk => formatRI 0x4#4 x kk
  | .seVxVy x y => formatRRN 0x5#4 x y 0x0#4
  | .ldVxKk x kk => formatRI 0x6#4 x kk
  | .addVxKk x kk => formatRI 0x7#4 x kk
  | .ldVxVy x y => formatRRN 0x8#4 x y 0x0#4
  | .orVxVy x y => formatRRN 0x8#4 x y 0x1#4
  | .andVxVy x y => formatRRN 0x8#4 x y 0x2#4
  | .xorVxVy x y => formatRRN 0x8#4 x y 0x3#4
  | .addVxVy x y => formatRRN 0x8#4 x y 0x4#4
  | .subVxVy x y => formatRRN 0x8#4 x y 0x5#4
  | .shrVxVy x y => formatRRN 0x8#4 x y 0x6#4
  | .subnVxVy x y => formatRRN 0x8#4 x y 0x7#4
  | .shlVxVy x y => formatRRN 0x8#4 x y 0xE#4
  | .sneVxVy x y => formatRRN 0x9#4 x y 0x0#4
  | .ldINnn nnn => formatA 0xA#4 nnn
  | .jpV0Nnn nnn => formatA 0xB#4 nnn
  | .rndVxKk x kk => formatRI 0xC#4 x kk
  | .drwVxVyN x y n => formatRRN 0xD#4 x y (BitVec.ofNat 4 n)
  | .skpVx x => formatRI 0xE#4 x 0x9E#8
  | .sknpVx x => formatRI 0xE#4 x 0xA1#8
  | .ldVxDt x => formatRI 0xF#4 x 0x07#8
  | .ldDtVx x => formatRI 0xF#4 x 0x15#8
  | .ldStVx x => formatRI 0xF#4 x 0x18#8
  | .addIVx x => formatRI 0xF#4 x 0x1E#8
  | .ldFVx x => formatRI 0xF#4 x 0x29#8
  | .ldBVx x => formatRI 0xF#4 x 0x33#8
  | .ldMemVx x => formatRI 0xF#4 x 0x55#8
  | .ldVxMem x => formatRI 0xF#4 x 0x65#8

/-- The instruction as memory holds it: two bytes, high byte first (R55, R80). -/
def encodeBytes (i : Instr) : List Byte := [highByte (encode i), lowByte (encode i)]

/-! ### The opcode map of R85 as a table -/

/-- One row of R85: its number, the bits it fixes and their values. -/
structure OpcodeRow where
  number : Nat
  pattern : Word
  mask : Word
deriving DecidableEq, Repr

/-- A word selects a row when its masked bits are the row's pattern (R84). -/
def OpcodeRow.selects (r : OpcodeRow) (w : Word) : Bool := w &&& r.mask == r.pattern

/-- Rows 1 to 18 of R85. -/
def opcodeMapLow : List OpcodeRow :=
  [⟨1, 0x00E0, 0xFFFF⟩, ⟨2, 0x00EE, 0xFFFF⟩, ⟨3, 0x1000, 0xF000⟩, ⟨4, 0x2000, 0xF000⟩, ⟨5, 0x3000, 0xF000⟩,
   ⟨6, 0x4000, 0xF000⟩, ⟨7, 0x5000, 0xF00F⟩, ⟨8, 0x6000, 0xF000⟩, ⟨9, 0x7000, 0xF000⟩, ⟨10, 0x8000, 0xF00F⟩,
   ⟨11, 0x8001, 0xF00F⟩, ⟨12, 0x8002, 0xF00F⟩, ⟨13, 0x8003, 0xF00F⟩, ⟨14, 0x8004, 0xF00F⟩, ⟨15, 0x8005, 0xF00F⟩,
   ⟨16, 0x8006, 0xF00F⟩, ⟨17, 0x8007, 0xF00F⟩, ⟨18, 0x800E, 0xF00F⟩]

/-- Rows 19 to 33 of R85. -/
def opcodeMapHigh : List OpcodeRow :=
  [⟨19, 0x9000, 0xF00F⟩, ⟨20, 0xA000, 0xF000⟩, ⟨21, 0xB000, 0xF000⟩, ⟨22, 0xC000, 0xF000⟩, ⟨23, 0xD000, 0xF000⟩,
   ⟨24, 0xE09E, 0xF0FF⟩, ⟨25, 0xE0A1, 0xF0FF⟩, ⟨26, 0xF007, 0xF0FF⟩, ⟨27, 0xF015, 0xF0FF⟩, ⟨28, 0xF018, 0xF0FF⟩,
   ⟨29, 0xF01E, 0xF0FF⟩, ⟨30, 0xF029, 0xF0FF⟩, ⟨31, 0xF033, 0xF0FF⟩, ⟨32, 0xF055, 0xF0FF⟩, ⟨33, 0xF065, 0xF0FF⟩]

/-- The complete map of R85: 33 rows. -/
def opcodeMap : List OpcodeRow := opcodeMapLow ++ opcodeMapHigh

/-- The number of an instruction's row in R85: the operation tag of the result record (R117, `op[5:0]` of R244). -/
def Instr.rowNumber : Instr → Nat
  | .cls => 1
  | .ret => 2
  | .jpNnn _ => 3
  | .callNnn _ => 4
  | .seVxKk _ _ => 5
  | .sneVxKk _ _ => 6
  | .seVxVy _ _ => 7
  | .ldVxKk _ _ => 8
  | .addVxKk _ _ => 9
  | .ldVxVy _ _ => 10
  | .orVxVy _ _ => 11
  | .andVxVy _ _ => 12
  | .xorVxVy _ _ => 13
  | .addVxVy _ _ => 14
  | .subVxVy _ _ => 15
  | .shrVxVy _ _ => 16
  | .subnVxVy _ _ => 17
  | .shlVxVy _ _ => 18
  | .sneVxVy _ _ => 19
  | .ldINnn _ => 20
  | .jpV0Nnn _ => 21
  | .rndVxKk _ _ => 22
  | .drwVxVyN _ _ _ => 23
  | .skpVx _ => 24
  | .sknpVx _ => 25
  | .ldVxDt _ => 26
  | .ldDtVx _ => 27
  | .ldStVx _ => 28
  | .addIVx _ => 29
  | .ldFVx _ => 30
  | .ldBVx _ => 31
  | .ldMemVx _ => 32
  | .ldVxMem _ => 33

end Sys2Proof
end

