-- ==== Sys2Proof/Machine/State.lean ====
section
/-! DEFINITION. The state of GoChip8 CORE as plain data (10_state.md R20), why a command can stop, and the state right
after RESET (R36, R260). -/

namespace Sys2Proof.Machine

/-- `MEM` (R33): the bytes that differ from the contents right after RESET, by strictly rising address. What an
unlisted address reads as is `Memory.unlisted`. -/
abbrev Memory := List Host.Cell

/-- `FB` (R31): 32 rows from the top. A row is its 64 one-bit pixels written left to right, so column 0 is the most
significant bit (log 16). -/
abbrev FrameBuffer := Vector (BitVec 64) 32

/-- Everything the spec gives the machine: the ten items of R20, and two fields of the model's own. -/
structure State where
  /-- `MEM`, 4096 bytes (R33, R51) -/
  mem : Memory
  /-- `V0` to `VF` (R21) -/
  v : Vector Byte 16
  /-- `I` (R24) -/
  i : Word
  /-- `PC` (R25) -/
  pc : Word
  /-- `STACK`, 16 return addresses outside memory (R27) -/
  stack : Vector Word 16
  /-- `SP`, the number of return addresses held, 0 to 16 (R28) -/
  sp : Fin 17
  /-- `DT`, the delay timer (R29) -/
  dt : Byte
  /-- `ST`, the sound timer (R30) -/
  st : Byte
  /-- `FB` (R31) -/
  fb : FrameBuffer
  /-- `KEY`, true when the key is down (R32) -/
  key : Vector Bool 16
  /-- The model's own (log 6): how many random bytes the environment has supplied (R10). -/
  draws : Nat
  /-- The model's own (log 5): the strap of the session (R9), which no command changes (R262). -/
  config : Config
deriving DecidableEq, Repr

/-- The errors of R220, with the information R220 says is recorded. All are reported by the command that met them and
end the run, the treatment R229 recommends (log 4): safe, since the hardware may go on where the model stops. -/
inductive Fault where
  /-- Code 1 (R221). Raised by STEP at decode for a word that matches no row of R85. Safe. -/
  | errUnknownInstruction (fetchAddr word : Word)
  /-- Code 2 (R222). Raised by CALL when `SP = 16`. Safe. -/
  | errStackOverflow (fetchAddr : Word)
  /-- Code 3 (R223). Raised by RET when `SP = 0`. Safe. -/
  | errStackUnderflow (fetchAddr : Word)
  /-- Code 4 (R224). Raised by LOAD for an image longer than 3584 bytes; never by a step. Safe. -/
  | errImageTooLarge (length : Nat)
  /-- Code 5 (R225). Raised by the fetch, DRW, LD B, LD [I],Vx and LD Vx,[I] when they would touch an address above
  0xFFF; `first` is the first offending address (R220), `highest` the highest address that would be touched, which the
  pseudocode of R183 to R185 and R202 passes to `raise` (log 9). Safe. -/
  | errAddressRange (fetchAddr : Word) (first highest : Nat)
  /-- Code 6 (R226). Raised by LD F when `V[x] > 15`. Safe. -/
  | errGlyphIndex (fetchAddr : Word) (value : Byte)
deriving DecidableEq, Repr

/-- Reasons to give an instruction no meaning. -/
inductive Refusal where
  /-- The instruction has no meaning in `exec` yet; raised by `exec`'s arm alone, and by no arm today. Safe. -/
  | notModelled (mnemonic : String)
deriving DecidableEq, Repr

/-- How every command of this machine ends. -/
abbrev Outcome := Host.Outcome State Fault Refusal

/-- The state right after the RESET of a fresh session (R36, R260): `PC = 0x200`, memory with nothing listed, all else
zero; the model's own fields at the values of log 5 and log 6. -/
def State.reset : State where
  mem := []
  v := Vector.replicate 16 0x00#8
  i := 0x0000#16
  pc := 0x0200#16
  stack := Vector.replicate 16 0x0000#16
  sp := 0
  dt := 0x00#8
  st := 0x00#8
  fb := Vector.replicate 32 0#64
  key := Vector.replicate 16 false
  draws := 0
  config := ⟨false⟩

end Sys2Proof.Machine
end

