-- ==== Sys2Proof/Machine/Memory.lean ====
section
/-! DEFINITION. `MEM` (20_memory.md): what it holds after RESET, reading and writing one byte, runs of bytes, and the
canonical form of the list that holds it. -/

namespace Sys2Proof.Machine

/-- The glyphs of the digits 0 to 7 (R53): five rows each, top row first, bit 7 leftmost. -/
def glyphsLow : List Byte :=
  [0xF0, 0x90, 0x90, 0x90, 0xF0,  0x20, 0x60, 0x20, 0x20, 0x70,  0xF0, 0x10, 0xF0, 0x80, 0xF0,
   0xF0, 0x10, 0xF0, 0x10, 0xF0,  0x90, 0x90, 0xF0, 0x10, 0x10,  0xF0, 0x80, 0xF0, 0x10, 0xF0,
   0xF0, 0x80, 0xF0, 0x90, 0xF0,  0xF0, 0x10, 0x20, 0x40, 0x40]

/-- The glyphs of the digits 8 to F (R53). -/
def glyphsHigh : List Byte :=
  [0xF0, 0x90, 0xF0, 0x90, 0xF0,  0xF0, 0x90, 0xF0, 0x10, 0xF0,  0xF0, 0x90, 0xF0, 0x90, 0x90,
   0xE0, 0x90, 0xE0, 0x90, 0xE0,  0xF0, 0x80, 0x80, 0x80, 0xF0,  0xE0, 0x90, 0x90, 0x90, 0xE0,
   0xF0, 0x80, 0xF0, 0x80, 0xF0,  0xF0, 0x80, 0xF0, 0x80, 0x80]

/-- `GLYPH` (R53), the 80 bytes at 0x000 to 0x04F. UNVERIFIED: the spec gives them from general knowledge (log 2). -/
def glyphTable : List Byte := glyphsLow ++ glyphsHigh

/-- What an unlisted address reads as: the contents after RESET (R36), the glyph table at 0x000 to 0x04F and 0x00
everywhere above. -/
def Memory.unlisted (a : Nat) : Byte := glyphTable.getD a 0x00#8

/-- `MemRead(a, 1)` (R12). Callers check the range first (R56). -/
def Memory.read : Memory → Nat → Byte
  | [], a => Memory.unlisted a
  | (b, x) :: rest, a => if a = b then x else Memory.read rest a

/-- List a byte at an address, unless it is what an unlisted address reads as. -/
def Memory.listed (a : Nat) (x : Byte) (rest : Memory) : Memory :=
  if x = Memory.unlisted a then rest else (a, x) :: rest

/-- `MemWrite(a, 1, x)` (R12), keeping the list canonical. Callers check the range first (R56). -/
def Memory.write : Memory → Nat → Byte → Memory
  | [], a, x => Memory.listed a x []
  | (b, y) :: rest, a, x =>
    if a < b then Memory.listed a x ((b, y) :: rest)
    else if a = b then Memory.listed a x rest
    else (b, y) :: Memory.write rest a x

/-- Store bytes at ascending addresses from `base` (R59). -/
def Memory.writeBytes : Memory → Nat → List Byte → Memory
  | m, _, [] => m
  | m, base, x :: xs => Memory.writeBytes (Memory.write m base x) (base + 1) xs

/-- The `count` bytes from `base`, in ascending order (R59). -/
def Memory.readBytes (m : Memory) : Nat → Nat → List Byte
  | _, 0 => []
  | base, count + 1 => Memory.read m base :: Memory.readBytes m (base + 1) count

/-- Every entry of the list lies at `low` or above, in strictly rising order, inside the 4096 bytes of R51, and differs
from what its address reads as when unlisted. -/
def Memory.wfFrom (low : Nat) : Memory → Bool
  | [] => true
  | (a, x) :: rest => decide (low ≤ a) && decide (a < memSize) && decide (x ≠ Memory.unlisted a) && wfFrom (a + 1) rest

/-- The canonical form: equal memories are equal lists. -/
def Memory.wf (m : Memory) : Bool := Memory.wfFrom 0 m

end Sys2Proof.Machine
end

