-- ==== Sys2Proof/Machine/Ops.lean ====
section
/-! DEFINITION. The named operations over the state: one accessor and one setter per register, the fetch, the range
check, the call stack, the framebuffer, and raising an error (what this hardware has in place of taking an exception,
R230) with the state it leaves (in place of the return, R231). -/

namespace Sys2Proof.Machine

/-! ### Registers (R21 to R32) -/

/-- `V[x]` (R12). -/
def State.getV (s : State) (x : Reg) : Byte := s.v[x.val]

/-- `V[x] <- b` (R12). No register is hard-wired (R21). -/
def State.setV (s : State) (x : Reg) (b : Byte) : State := { s with v := s.v.set x.val b }

/-- `PC <- a`. -/
def State.setPc (s : State) (a : Word) : State := { s with pc := a }

/-- `I <- a`. -/
def State.setI (s : State) (a : Word) : State := { s with i := a }

/-- `DT <- b`. -/
def State.setDt (s : State) (b : Byte) : State := { s with dt := b }

/-- `ST <- b`. -/
def State.setSt (s : State) (b : Byte) : State := { s with st := b }

/-- The framebuffer replaced. -/
def State.setFb (s : State) (f : FrameBuffer) : State := { s with fb := f }

/-- The memory replaced. -/
def State.setMem (s : State) (m : Memory) : State := { s with mem := m }

/-- `KEY[k]` (R32). -/
def State.getKey (s : State) (k : Reg) : Bool := s.key[k.val]

/-- `KEY[k] <- p` (R239). -/
def State.setKey (s : State) (k : Reg) (p : Bool) : State := { s with key := s.key.set k.val p }

/-- One more random byte has been supplied (log 6). -/
def State.countDraw (s : State) : State := { s with draws := s.draws + 1 }

/-- The byte at an address, as the model reads memory. -/
def State.readByte (s : State) (a : Nat) : Byte := s.mem.read a

/-- The sample-first write order of R115: the flag into `VF` first, the result into `V[x]` second, so that with
`x = 15` the result is what `VF` holds. Both values were computed from operands sampled before (log 10). -/
def State.setFlagThenResult (s : State) (x : Reg) (flag result : Byte) : State := (s.setV VF flag).setV x result

/-- The registers from `k` up replaced by the bytes of a list, as far as registers go (R185). -/
def State.loadRegsFrom (s : State) : Nat → List Byte → State
  | _, [] => s
  | k, b :: bs => if h : k < 16 then loadRegsFrom (s.setV ⟨k, h⟩ b) (k + 1) bs else s

/-- The values of `V[0]` to `V[x]`, `x` included (R184). -/
def State.regsUpTo (s : State) (x : Reg) : List Byte := s.v.toList.take (x.val + 1)

/-! ### The program counter (R25, R26, R112) -/

/-- The advance of the fetch: `PC <- (PC + 2) mod 65536` (R112). -/
def State.advance (s : State) : State := s.setPc (s.pc + 2#16)

/-- `fetch_addr` as an executing instruction knows it: `PC` is the fetch address plus 2 (R25). -/
def State.fetchAddr (s : State) : Word := s.pc - 2#16

/-- `skip`, when the condition holds: `PC <- (PC + 2) mod 65536` on top of the fetch's advance (R12, R138). -/
def State.skipIf (c : Bool) (s : State) : State := if c then s.setPc (s.pc + 2#16) else s

/-! ### Raising an error (R12, R227 to R231) -/

/-- `raise <Error>(info)`: the command ends at once with that error (R12). Nothing is saved, no mode changes and control
goes nowhere (R230); every use stands before the first write of its instruction (R227). -/
def raise (e : Fault) : Outcome := .fault e

/-- The state an error of STEP leaves (R225, R227): a fetch-stage error leaves everything as it was; any later error
leaves `PC` at the fetch address plus 2 and nothing else changed. An environment that ignores the error and continues
(R231) issues its next command at this state. -/
def State.afterError (s : State) : State := if 0xFFE < s.pc.toNat then s else s.advance

/-! ### Memory (R56) -/

/-- `ErrAddressRange` for an access to `count` bytes from `base` that reaches above 0xFFF: the first of its addresses
that is above 0xFFF (R220), and the highest of all (the argument of `raise` in R183 to R185 and R202); log 9. -/
def rangeError (fetchAddr : Word) (base count : Nat) : Fault :=
  .errAddressRange fetchAddr (max base 0x1000) (base + count - 1)

/-- The range check of R56, before any byte moves: an instruction that touches `count` bytes from `base` raises
`ErrAddressRange` if the highest of them lies above 0xFFF; touching no byte makes no check. The address is an unbounded
number, never reduced. -/
def withinMemory (s : State) (base count : Nat) (continueWith : Outcome) : Outcome :=
  if 0 < count ∧ 0xFFF < base + count - 1 then raise (rangeError s.fetchAddr base count) else continueWith

/-- Fetch (R111): the word at `PC`, high byte first; `none` when `PC > 0xFFE`. -/
def fetchWord (s : State) : Option Word :=
  if 0xFFE < s.pc.toNat then none else some (wordOfBytes (s.readByte s.pc.toNat) (s.readByte (s.pc.toNat + 1)))

/-- The error of a failed fetch (R111, R225): the access is to the two bytes at `PC`. -/
def fetchError (s : State) : Fault := rangeError s.pc s.pc.toNat 2

/-- The bytes of one instruction word stored at an address, high byte first (R55). -/
def State.storeWord (s : State) (a : Nat) (w : Word) : State := s.setMem (s.mem.writeBytes a [highByte w, lowByte w])

/-! ### The call stack (R27, R28) -/

/-- Push: `STACK[SP] <- a; SP <- SP + 1`; `none` when the stack is full (`SP = 16`). -/
def State.push (s : State) (a : Word) : Option State :=
  if h : s.sp.val < 16 then some { s with stack := s.stack.set s.sp.val a, sp := ⟨s.sp.val + 1, by omega⟩ } else none

/-- Pop: `SP <- SP - 1`, and the entry at the new `SP`, which keeps its value (R27); `none` when the stack is empty. -/
def State.pop (s : State) : Option (Word × State) :=
  if h : 0 < s.sp.val then
    some (s.stack[s.sp.val - 1]'(by omega), { s with sp := ⟨s.sp.val - 1, by omega⟩ })
  else none

/-! ### The framebuffer (R31, R200) -/

/-- `FB[row][col]` (R12): rows from the top, columns from the left. -/
def FrameBuffer.pixel (f : FrameBuffer) (row col : Nat) : Bool :=
  if h : row < 32 then f[row].getMsbD col else false

/-- The framebuffer with every pixel 0 (R201). -/
def FrameBuffer.clear : FrameBuffer := Vector.replicate 32 0#64

/-- The pixels one sprite byte lands on, as a row: sprite column `c` is bit `7 - c` of the byte and lands on column
`x0 + c` (R200); columns past 63 are dropped, not wrapped (R202). -/
def spriteRow (b : Byte) (x0 : Nat) : BitVec 64 := (b.setWidth 64 <<< 56) >>> x0

/-- One row of the draw of R202: exclusive OR of the sprite byte into a row of the screen, and whether a pixel went from
set to unset; a row past the bottom edge is dropped. -/
def FrameBuffer.drawRow (f : FrameBuffer) (x0 row : Nat) (b : Byte) : FrameBuffer × Bool :=
  if h : row < 32 then
    (f.set row (f[row] ^^^ spriteRow b x0), decide (f[row] &&& spriteRow b x0 ≠ 0#64))
  else (f, false)

/-- The draw of R202: the sprite's bytes from the top, the first on row `row`, with the collision flag of all rows. -/
def FrameBuffer.draw (f : FrameBuffer) (x0 : Nat) : Nat → List Byte → FrameBuffer × Bool
  | _, [] => (f, false)
  | row, b :: bs =>
    let first := f.drawRow x0 row b
    let others := FrameBuffer.draw first.1 x0 (row + 1) bs
    (others.1, first.2 || others.2)

end Sys2Proof.Machine
end

