-- ==== Sys2Proof/Machine/Flags.lean ====
section
/-! DEFINITION. Every flag computation and every result of the flag-writing instructions (R23, 42_alu.md R150). Values
are computed exactly on unbounded numbers and reduced at the end. -/

namespace Sys2Proof.Machine

/-- A flag as `VF` holds it: 0x01 or 0x00 (R23). -/
def flagByte (b : Bool) : Byte := if b then 0x01#8 else 0x00#8

/-- The carry of an addition: the 9-bit true sum exceeds 255 (R157). -/
def carries (a b : Byte) : Bool := decide (255 < a.toNat + b.toNat)

/-- The sum modulo 256 (R150, R152, R157). -/
def sumByte (a b : Byte) : Byte := BitVec.ofNat 8 (a.toNat + b.toNat)

/-- No borrow in `a - b`: `a >= b` (R158, R160), the inverse of a borrow. -/
def noBorrow (a b : Byte) : Bool := decide (b.toNat ≤ a.toNat)

/-- The difference modulo 256 (R150, R158, R160). -/
def diffByte (a b : Byte) : Byte := BitVec.ofInt 8 ((a.toNat : Int) - (b.toNat : Int))

/-- The bit a right shift moves out, `s[0]` (R159). -/
def bitOutRight (b : Byte) : Bool := b.getLsbD 0

/-- The byte shifted right by one, bit 7 becoming 0 (R159). -/
def shiftedRight (b : Byte) : Byte := b >>> 1

/-- The bit a left shift moves out, `s[7]` (R161). -/
def bitOutLeft (b : Byte) : Bool := b.getLsbD 7

/-- The byte shifted left by one, modulo 256, bit 0 becoming 0 (R161). -/
def shiftedLeft (b : Byte) : Byte := b <<< 1

end Sys2Proof.Machine
end

