-- ==== Sys2Proof/Machine/Operands.lean ====
section
/-! DEFINITION. Every operand form the spec gives an instruction (30_encoding.md R83, 20_memory.md R65, and the rules that
use them). The plain register operands `V[x]`, `V[y]` are `State.getV`. -/

namespace Sys2Proof.Machine

/-- `zext_16(nnn)`: an absolute address as `PC` or `I` holds it (R83, R131, R132, R180). -/
def zextAddr (nnn : BitVec 12) : Word := nnn.setWidth 16

/-- The target of JP V0: `nnn + V[0]` (R137), at most 0x10FE and not reduced to 12 bits. -/
def offsetTarget (nnn : BitVec 12) (s : State) : Word := BitVec.ofNat 16 (nnn.toNat + (s.getV 0).toNat)

/-- The base address of a data access: register-indirect through `I`, as an unbounded number (R56, R65). -/
def baseAddr (s : State) : Nat := s.i.toNat

/-- The source register of SHR and SHL: `V[y]` when `SHIFT_USES_VY`, else `V[x]` (R9, R159, R161). That the true mode
still writes `Vx` and leaves `Vy` alone is the spec's general knowledge (log 21). -/
def shiftSource (x y : Reg) (s : State) : Byte := if s.config.shiftUsesVy then s.getV y else s.getV x

/-- The key a skip names: `V[x][3:0]`, the high nibble ignored (R210, R211). -/
def keyOperand (x : Reg) (s : State) : Reg := ((s.getV x).extractLsb' 0 4).toFin

/-- The start column of a sprite, `V[x] mod 64` (R202). -/
def spriteCol (x : Reg) (s : State) : Nat := (s.getV x).toNat % 64

/-- The start row of a sprite, `V[y] mod 32` (R202). -/
def spriteTop (y : Reg) (s : State) : Nat := (s.getV y).toNat % 32

/-- The decimal digits LD B stores: hundreds, tens, units (R183). -/
def bcdDigits (b : Byte) : List Byte :=
  [BitVec.ofNat 8 (b.toNat / 100), BitVec.ofNat 8 (b.toNat / 10 % 10), BitVec.ofNat 8 (b.toNat % 10)]

/-- The address of the glyph of a digit, `5 * d` (R182); `GLYPH_BASE` is 0 (R7). -/
def glyphAddr (d : Byte) : Word := BitVec.ofNat 16 (5 * d.toNat)

end Sys2Proof.Machine
end

