-- ==== Sys2Proof/Machine/Alu.lean ====
section
/-! DEFINITION. 42_alu.md: register load, arithmetic, logic, shift and random instructions. None can raise an error. -/

namespace Sys2Proof.Machine

/-- LD Vx, kk (R151). -/
def execLdVxKk (x : Reg) (kk : Byte) (s : State) : Outcome := .next (s.setV x kk)

/-- ADD Vx, kk (R152): no carry is recorded. -/
def execAddVxKk (x : Reg) (kk : Byte) (s : State) : Outcome := .next (s.setV x (sumByte (s.getV x) kk))

/-- LD Vx, Vy (R153). -/
def execLdVxVy (x y : Reg) (s : State) : Outcome := .next (s.setV x (s.getV y))

/-- OR Vx, Vy (R154). -/
def execOrVxVy (x y : Reg) (s : State) : Outcome := .next (s.setV x (s.getV x ||| s.getV y))

/-- AND Vx, Vy (R155). -/
def execAndVxVy (x y : Reg) (s : State) : Outcome := .next (s.setV x (s.getV x &&& s.getV y))

/-- XOR Vx, Vy (R156). -/
def execXorVxVy (x y : Reg) (s : State) : Outcome := .next (s.setV x (s.getV x ^^^ s.getV y))

/-- ADD Vx, Vy (R157). -/
def execAddVxVy (x y : Reg) (s : State) : Outcome :=
  .next (s.setFlagThenResult x (flagByte (carries (s.getV x) (s.getV y))) (sumByte (s.getV x) (s.getV y)))

/-- SUB Vx, Vy (R158). -/
def execSubVxVy (x y : Reg) (s : State) : Outcome :=
  .next (s.setFlagThenResult x (flagByte (noBorrow (s.getV x) (s.getV y))) (diffByte (s.getV x) (s.getV y)))

/-- SHR Vx, Vy (R159). -/
def execShrVxVy (x y : Reg) (s : State) : Outcome :=
  .next (s.setFlagThenResult x (flagByte (bitOutRight (shiftSource x y s))) (shiftedRight (shiftSource x y s)))

/-- SUBN Vx, Vy (R160). -/
def execSubnVxVy (x y : Reg) (s : State) : Outcome :=
  .next (s.setFlagThenResult x (flagByte (noBorrow (s.getV y) (s.getV x))) (diffByte (s.getV y) (s.getV x)))

/-- SHL Vx, Vy (R161). -/
def execShlVxVy (x y : Reg) (s : State) : Outcome :=
  .next (s.setFlagThenResult x (flagByte (bitOutLeft (shiftSource x y s))) (shiftedLeft (shiftSource x y s)))

/-- RND Vx, kk for the byte `r` the environment supplies (R162). -/
def withDraw (r : Byte) (x : Reg) (kk : Byte) (s : State) : Outcome := .next (s.countDraw.setV x (r &&& kk))

/-- RND Vx, kk (R162): each executed RND is a fresh draw, a free value (log 6). -/
def execRndVxKk (x : Reg) (kk : Byte) (s : State) : Outcome := withDraw (Config.drawByte s.draws) x kk s

end Sys2Proof.Machine
end

