-- ==== Sys2Proof/Machine/ControlFlow.lean ====
section
/-! DEFINITION. 41_control_flow.md: RET, JP, CALL, the four register skips, JP V0. In every meaning `PC` is the fetch
address plus 2 (R112). -/

namespace Sys2Proof.Machine

/-- RET (R130). -/
def execRet (s : State) : Outcome :=
  match s.pop with
  | none => raise (.errStackUnderflow s.fetchAddr)
  | some (a, t) => .next (t.setPc a)

/-- JP nnn (R131). -/
def execJpNnn (nnn : BitVec 12) (s : State) : Outcome := .next (s.setPc (zextAddr nnn))

/-- CALL nnn (R132): the pushed value is the address of the instruction after the CALL. -/
def execCallNnn (nnn : BitVec 12) (s : State) : Outcome :=
  match s.push s.pc with
  | none => raise (.errStackOverflow s.fetchAddr)
  | some t => .next (t.setPc (zextAddr nnn))

/-- SE Vx, kk (R133). -/
def execSeVxKk (x : Reg) (kk : Byte) (s : State) : Outcome := .next (s.skipIf (decide (s.getV x = kk)))

/-- SNE Vx, kk (R134). -/
def execSneVxKk (x : Reg) (kk : Byte) (s : State) : Outcome := .next (s.skipIf (decide (s.getV x ≠ kk)))

/-- SE Vx, Vy (R135). -/
def execSeVxVy (x y : Reg) (s : State) : Outcome := .next (s.skipIf (decide (s.getV x = s.getV y)))

/-- SNE Vx, Vy (R136). -/
def execSneVxVy (x y : Reg) (s : State) : Outcome := .next (s.skipIf (decide (s.getV x ≠ s.getV y)))

/-- JP V0, nnn (R137). -/
def execJpV0Nnn (nnn : BitVec 12) (s : State) : Outcome := .next (s.setPc (offsetTarget nnn s))

end Sys2Proof.Machine
end

