-- ==== Sys2Proof/Machine/Display.lean ====
section
/-! DEFINITION. 44_display.md: CLS and DRW. -/

namespace Sys2Proof.Machine

/-- CLS (R201): `VF` is not written. -/
def execCls (s : State) : Outcome := .next (s.setFb FrameBuffer.clear)

/-- DRW Vx, Vy, n (R202): position and sprite bytes are sampled first, all `n` bytes are range-checked (D21, log 17), and
`VF` becomes the collision flag, 0 when there was none. -/
def execDrwVxVyN (x y : Reg) (n : Nat) (s : State) : Outcome :=
  let drawn := s.fb.draw (spriteCol x s) (spriteTop y s) (s.mem.readBytes (baseAddr s) n)
  withinMemory s (baseAddr s) n (.next ((s.setFb drawn.1).setV VF (flagByte drawn.2)))

end Sys2Proof.Machine
end

