-- ==== Sys2Proof/Machine/IndexMemory.lean ====
section
/-! DEFINITION. 43_index_memory.md: the index register, binary-coded decimal, range store and range load. -/

namespace Sys2Proof.Machine

/-- LD I, nnn (R180). -/
def execLdINnn (nnn : BitVec 12) (s : State) : Outcome := .next (s.setI (zextAddr nnn))

/-- ADD I, Vx (R181): modulo 65536, no flag, never an error. -/
def execAddIVx (x : Reg) (s : State) : Outcome := .next (s.setI (BitVec.ofNat 16 (s.i.toNat + (s.getV x).toNat)))

/-- LD F, Vx (R182): the spec rejects a value above 15 (log 11). -/
def execLdFVx (x : Reg) (s : State) : Outcome :=
  if 15 < (s.getV x).toNat then raise (.errGlyphIndex s.fetchAddr (s.getV x)) else .next (s.setI (glyphAddr (s.getV x)))

/-- LD B, Vx (R183): three digits at `I`, `I + 1`, `I + 2`; `I` is not changed. -/
def execLdBVx (x : Reg) (s : State) : Outcome :=
  withinMemory s (baseAddr s) 3 (.next (s.setMem (s.mem.writeBytes (baseAddr s) (bcdDigits (s.getV x)))))

/-- LD [I], Vx (R184): `V[0]` to `V[x]` inclusive; `I` is not changed. -/
def execLdMemVx (x : Reg) (s : State) : Outcome :=
  withinMemory s (baseAddr s) (x.val + 1) (.next (s.setMem (s.mem.writeBytes (baseAddr s) (s.regsUpTo x))))

/-- LD Vx, [I] (R185): `V[0]` to `V[x]` inclusive; `I` is not changed. -/
def execLdVxMem (x : Reg) (s : State) : Outcome :=
  withinMemory s (baseAddr s) (x.val + 1) (.next (s.loadRegsFrom 0 (s.mem.readBytes (baseAddr s) (x.val + 1))))

end Sys2Proof.Machine
end

