-- ==== Sys2Proof/Machine/KeysTimers.lean ====
section
/-! DEFINITION. 45_keys_timers.md: the key skips and the timer accesses. None can raise an error. -/

namespace Sys2Proof.Machine

/-- SKP Vx (R210): the key flag is sampled now; nothing waits. -/
def execSkpVx (x : Reg) (s : State) : Outcome := .next (s.skipIf (s.getKey (keyOperand x s)))

/-- SKNP Vx (R211). -/
def execSknpVx (x : Reg) (s : State) : Outcome := .next (s.skipIf (!s.getKey (keyOperand x s)))

/-- LD Vx, DT (R212): the timer is 8 bits, so the truncation is the identity (C7). -/
def execLdVxDt (x : Reg) (s : State) : Outcome := .next (s.setV x s.dt)

/-- LD DT, Vx (R213). -/
def execLdDtVx (x : Reg) (s : State) : Outcome := .next (s.setDt (s.getV x))

/-- LD ST, Vx (R214). -/
def execLdStVx (x : Reg) (s : State) : Outcome := .next (s.setSt (s.getV x))

end Sys2Proof.Machine
end

