-- ==== Sys2Proof/Machine/Step.lean ====
section
/-! DEFINITION. The STEP command (40_step_cycle.md R110): fetch, advance, decode, execute. The other commands stand in
Commands.lean and Environment.lean (log 7). -/

namespace Sys2Proof.Machine

/-- One STEP (R110, R228): a fetch-stage error first (R111), then an illegal word (R113), then the instruction on the
state with `PC` advanced (R112, R114). -/
def step (s : State) : Host.Outcome State Fault Refusal :=
  match fetchWord s with
  | none => raise (fetchError s)
  | some w =>
    match decodeWord w with
    | none => raise (.errUnknownInstruction s.pc w)
    | some i => exec i s.advance

/-- The state with the table word `w` stored where the next STEP fetches, so that this STEP runs it. Only the two bytes at
`PC` change; where `PC` is above 0xFFE no fetch is possible, and `PC` is first set to 0x200 (log 15). -/
def State.withFetchWord (s : State) (nbits w : Nat) : State :=
  let at' := if 0xFFE < s.pc.toNat then s.setPc 0x0200#16 else s
  at'.storeWord at'.pc.toNat (BitVec.ofNat 16 (w % 2 ^ nbits))

end Sys2Proof.Machine
end

