-- ==== Sys2Proof/Machine/Commands.lean ====
section
/-! DEFINITION. The commands of the environment that are not STEP: RESET (70_reset_and_hazards.md R260), LOAD, TICK, SETKEY
(60_exceptions.md R236, R239, R241), and the derived output `sound_on` (R238). -/

namespace Sys2Proof.Machine

/-- RESET (R260): every item of R20 at its reset value, from any state. The strap is not changed (R262); random bytes
stay fresh draws (log 6). -/
def resetCommand (s : State) : State := { State.reset with draws := s.draws, config := s.config }

/-- LOAD (R241, R242): the image from 0x200 up and no other byte, register or `PC`; an image of more than 3584 bytes is
rejected whole. -/
def loadImage (image : List Byte) (s : State) : Outcome :=
  if maxImage < image.length then raise (.errImageTooLarge image.length)
  else .next (s.setMem (s.mem.writeBytes progBase image))

/-- One timer's part of TICK: `if T > 0 then T <- T - 1` (R236). -/
def countDown (t : Byte) : Byte := if 0 < t.toNat then t - 1#8 else t

/-- TICK (R236): both timers, each by its own test, and nothing else. -/
def tick (s : State) : State := (s.setDt (countDown s.dt)).setSt (countDown s.st)

/-- SETKEY (R239): one key flag and nothing else; the index is 4 bits. -/
def setKeyCommand (k : Reg) (pressed : Bool) (s : State) : State := s.setKey k pressed

/-- `sound_on = (ST != 0)` (R238). -/
def soundOn (s : State) : Bool := decide (s.st ≠ 0x00#8)

end Sys2Proof.Machine
end

