-- ==== Sys2Proof/Machine/Environment.lean ====
section
/-! DEFINITION. The command interface (60_exceptions.md R240): the five commands, the result record of STEP (R117, R118),
the state after a command that reported an error (R227, R231), and runs of a schedule (R8). -/

namespace Sys2Proof.Machine

/-- The five commands, the only ways the state changes (R240). -/
inductive Command where
  /-- RESET (R260) -/
  | reset
  /-- LOAD of an image (R241) -/
  | load (image : List Byte)
  /-- STEP (R110) -/
  | step
  /-- TICK (R236) -/
  | tick
  /-- SETKEY of a 4-bit key number (R239) -/
  | setKey (k : Reg) (pressed : Bool)
deriving DecidableEq, Repr

/-- One command, atomically (R240); an error ends the run (R229, log 4). -/
def perform (c : Command) (s : State) : Outcome :=
  match c with
  | .reset => .next (resetCommand s)
  | .load image => loadImage image s
  | .step => step s
  | .tick => .next (tick s)
  | .setKey k pressed => .next (setKeyCommand k pressed s)

/-- The state right after a STEP, whatever its result (R227): what it wrote, or what its error leaves. -/
def afterStep (s : State) : State :=
  match step s with
  | .next t => t
  | .fault _ => s.afterError
  | .refused _ => s

/-- The state right after a command, whatever its result: a LOAD that raises an error has made no write (R227). -/
def afterCommand (c : Command) (s : State) : State :=
  match c with
  | .step => afterStep s
  | .load image => match loadImage image s with
    | .next t => t
    | .fault _ => s
    | .refused _ => s
  | .reset => resetCommand s
  | .tick => tick s
  | .setKey k pressed => setKeyCommand k pressed s

/-- A schedule run command by command, ended by the first error (R229). -/
def runSchedule : List Command → State → Outcome
  | [], s => .next s
  | c :: cs, s =>
    match perform c s with
    | .next t => runSchedule cs t
    | .fault e => .fault e
    | .refused r => .refused r

/-- A schedule run by an environment that ignores every error and continues (R231). -/
def runIgnoringErrors : List Command → State → State
  | [], s => s
  | c :: cs, s => runIgnoringErrors cs (afterCommand c s)

/-- The error an outcome reports, if any. -/
def errorOf : Outcome → Option Fault
  | .fault e => some e
  | .next _ | .refused _ => none

/-- The error codes of R220; 0 is `OK`. -/
def statusCode : Option Fault → Nat
  | none => 0
  | some (.errUnknownInstruction _ _) => 1
  | some (.errStackOverflow _) => 2
  | some (.errStackUnderflow _) => 3
  | some (.errImageTooLarge _) => 4
  | some (.errAddressRange _ _ _) => 5
  | some (.errGlyphIndex _ _) => 6

/-- The result record of a STEP (R117), an output only: nothing in it is state. -/
structure StepRecord where
  /-- `OK` (none) or the one error raised -/
  status : Option Fault
  /-- `PC` when the STEP began -/
  fetchAddr : Word
  /-- the word fetched; absent when the fetch itself failed ("undefined (not to be read)", R117) -/
  word : Option Word
  /-- the row of R85 of the decoded instruction; absent when the fetch or the decoding failed -/
  op : Option Nat
  /-- whether the framebuffer needs rendering again (R118) -/
  redraw : Bool
deriving DecidableEq, Repr

/-- CLS and DRW are the instructions that signal a redraw (R118). -/
def signalsRedraw (i : Instr) : Bool := i.rowNumber == 1 || i.rowNumber == 23

/-- The result record of the STEP issued at a state (R117). -/
def stepRecord (s : State) : StepRecord where
  status := errorOf (step s)
  fetchAddr := s.pc
  word := fetchWord s
  op := ((fetchWord s).bind decodeWord).map Instr.rowNumber
  redraw := (errorOf (step s)).isNone && (((fetchWord s).bind decodeWord).map signalsRedraw).getD false

end Sys2Proof.Machine
end

