-- ==== Sys2Proof/Safety.lean ====
section
/-! DEFINITION. What counts as a safe run and as the end of a run, and the words the statements use: what an instruction
leaves unchanged, which registers it may write, when STEP reports an error, where a sprite lands, and the invariant. -/

namespace Sys2Proof.Machine

/-- A run has ended (R266): `PC <= 0xFFE` and the word at `PC` is a jump to `PC`. -/
def State.ended (s : State) : Prop :=
  s.pc.toNat ≤ 0xFFE ∧ ∃ nnn : BitVec 12, fetchWord s = some (encode (.jpNnn nnn)) ∧ nnn.toNat = s.pc.toNat

/-- A schedule is safe from a state when no command of it reports an error (R229). -/
def safeSchedule (cs : List Command) (s : State) : Prop := ∃ t, runSchedule cs s = .next t

/-- The word a STEP at this state would fetch, when `PC <= 0xFFE` (R111). -/
def State.wordAtPc (s : State) : Word := wordOfBytes (s.readByte s.pc.toNat) (s.readByte (s.pc.toNat + 1))

/-! ### Frames -/

/-- Every V register but those in `changed` keeps its value. -/
def sameRegsBut (changed : List Reg) (s t : State) : Prop := ∀ r : Reg, r ∉ changed → t.getV r = s.getV r

/-- Every byte of memory reads as before. -/
def sameMemory (s t : State) : Prop := ∀ a : Nat, t.readByte a = s.readByte a

/-- Every byte of memory outside the `count` bytes from `base` reads as before. -/
def sameMemoryOutside (base count : Nat) (s t : State) : Prop :=
  ∀ a : Nat, (a < base ∨ base + count ≤ a) → t.readByte a = s.readByte a

/-- The stack pointer and every stack entry are as before. -/
def sameStack (s t : State) : Prop := t.sp = s.sp ∧ t.stack = s.stack

/-- Both timers are as before. -/
def sameTimers (s t : State) : Prop := t.dt = s.dt ∧ t.st = s.st

/-- Every pixel is as before. -/
def sameScreen (s t : State) : Prop := ∀ row col : Nat, t.fb.pixel row col = s.fb.pixel row col

/-- Keys, strap and the count of random bytes taken are as before. -/
def sameInputs (s t : State) : Prop := t.key = s.key ∧ t.config = s.config ∧ t.draws = s.draws

/-- Nothing changed but V registers in `changed`; `PC` too is as the fetch's advance left it (R112). -/
def onlyRegs (changed : List Reg) (s t : State) : Prop :=
  sameRegsBut changed s t ∧ t.i = s.i ∧ t.pc = s.pc ∧ sameStack s t ∧ sameTimers s t ∧ sameScreen s t ∧
    sameInputs s t ∧ sameMemory s t

/-- Nothing changed but `PC`. -/
def onlyPc (s t : State) : Prop :=
  sameRegsBut [] s t ∧ t.i = s.i ∧ sameStack s t ∧ sameTimers s t ∧ sameScreen s t ∧ sameInputs s t ∧ sameMemory s t

/-- Nothing changed but `PC`, `SP` and `STACK`. -/
def onlyPcAndStack (s t : State) : Prop :=
  sameRegsBut [] s t ∧ t.i = s.i ∧ sameTimers s t ∧ sameScreen s t ∧ sameInputs s t ∧ sameMemory s t

/-- Nothing changed but `I`. -/
def onlyIndex (s t : State) : Prop :=
  sameRegsBut [] s t ∧ t.pc = s.pc ∧ sameStack s t ∧ sameTimers s t ∧ sameScreen s t ∧ sameInputs s t ∧ sameMemory s t

/-- Nothing changed but the `count` bytes of memory from `base`. -/
def onlyMemory (base count : Nat) (s t : State) : Prop :=
  sameRegsBut [] s t ∧ t.i = s.i ∧ t.pc = s.pc ∧ sameStack s t ∧ sameTimers s t ∧ sameScreen s t ∧ sameInputs s t ∧
    sameMemoryOutside base count s t

/-- Nothing changed but the framebuffer and the V registers in `changed`. -/
def onlyScreenAndRegs (changed : List Reg) (s t : State) : Prop :=
  sameRegsBut changed s t ∧ t.i = s.i ∧ t.pc = s.pc ∧ sameStack s t ∧ sameTimers s t ∧ sameInputs s t ∧ sameMemory s t

/-- Nothing changed but the timers. -/
def onlyTimers (s t : State) : Prop :=
  sameRegsBut [] s t ∧ t.i = s.i ∧ t.pc = s.pc ∧ sameStack s t ∧ sameScreen s t ∧ sameInputs s t ∧ sameMemory s t

/-! ### Which registers an instruction may write -/

/-- The V registers an instruction may write: its destination, `VF` for the six flag writers of R23, `V0` to `Vx` for
the range load (R185); no others. -/
def mayWriteV (i : Instr) (r : Reg) : Bool :=
  match i with
  | .ldVxKk x _ | .addVxKk x _ | .ldVxVy x _ | .orVxVy x _ | .andVxVy x _ | .xorVxVy x _ | .rndVxKk x _
  | .ldVxDt x => decide (r = x)
  | .addVxVy x _ | .subVxVy x _ | .shrVxVy x _ | .subnVxVy x _ | .shlVxVy x _ => decide (r = x ∨ r = VF)
  | .drwVxVyN _ _ _ => decide (r = VF)
  | .ldVxMem x => decide (r ≤ x)
  | .cls | .ret | .jpNnn _ | .callNnn _ | .seVxKk _ _ | .sneVxKk _ _ | .seVxVy _ _ | .sneVxVy _ _ | .ldINnn _
  | .jpV0Nnn _ | .skpVx _ | .sknpVx _ | .ldDtVx _ | .ldStVx _ | .addIVx _ | .ldFVx _ | .ldBVx _ | .ldMemVx _ => false

/-! ### When STEP reports an error (R220, R116) -/

/-- The error an instruction raises in its execute stage, and when, from the state at the beginning of the STEP (so
`s.pc` is the fetch address; the two addresses of a range error are those of log 9); 26 of the 33 instructions raise none (R116). -/
def executeReports (i : Instr) (s : State) (e : Fault) : Prop :=
  match i with
  | .ret => s.sp.val = 0 ∧ e = .errStackUnderflow s.pc
  | .callNnn _ => s.sp.val = 16 ∧ e = .errStackOverflow s.pc
  | .ldFVx x => 15 < (s.getV x).toNat ∧ e = .errGlyphIndex s.pc (s.getV x)
  | .ldBVx _ => 0xFFF < s.i.toNat + 2 ∧ e = .errAddressRange s.pc (max s.i.toNat 0x1000) (s.i.toNat + 2)
  | .ldMemVx x => 0xFFF < s.i.toNat + x.val ∧ e = .errAddressRange s.pc (max s.i.toNat 0x1000) (s.i.toNat + x.val)
  | .ldVxMem x => 0xFFF < s.i.toNat + x.val ∧ e = .errAddressRange s.pc (max s.i.toNat 0x1000) (s.i.toNat + x.val)
  | .drwVxVyN _ _ n =>
    1 ≤ n ∧ 0xFFF < s.i.toNat + n - 1 ∧ e = .errAddressRange s.pc (max s.i.toNat 0x1000) (s.i.toNat + n - 1)
  | .cls | .jpNnn _ | .seVxKk _ _ | .sneVxKk _ _ | .seVxVy _ _ | .ldVxKk _ _ | .addVxKk _ _ | .ldVxVy _ _ | .orVxVy _ _
  | .andVxVy _ _ | .xorVxVy _ _ | .addVxVy _ _ | .subVxVy _ _ | .shrVxVy _ _ | .subnVxVy _ _ | .shlVxVy _ _
  | .sneVxVy _ _ | .ldINnn _ | .jpV0Nnn _ | .rndVxKk _ _ | .skpVx _ | .sknpVx _ | .ldVxDt _ | .ldDtVx _ | .ldStVx _
  | .addIVx _ => False

/-- The one error a STEP reports, and when, in the order of R228: fetch, decode, execute. -/
def stepReports (s : State) (e : Fault) : Prop :=
  (0xFFE < s.pc.toNat ∧ e = .errAddressRange s.pc (max s.pc.toNat 0x1000) (s.pc.toNat + 1)) ∨
  (s.pc.toNat ≤ 0xFFE ∧ decodeWord s.wordAtPc = none ∧ e = .errUnknownInstruction s.pc s.wordAtPc) ∨
  (s.pc.toNat ≤ 0xFFE ∧ ∃ i, decodeWord s.wordAtPc = some i ∧ executeReports i s e)

/-! ### Where a sprite lands (R200, R202) -/

/-- A sprite pixel of value 1 lands on row `row`, column `col`: it is pixel (`r`, `c`) of the sprite at `I`, bit `7 - c`
of byte `r`, and the start position is (`V[x] mod 64`, `V[y] mod 32`). -/
def spritePixel (s : State) (x y : Reg) (n row col : Nat) : Prop :=
  ∃ r c : Nat, r < n ∧ c < 8 ∧ row = (s.getV y).toNat % 32 + r ∧ col = (s.getV x).toNat % 64 + c ∧
    (s.readByte (s.i.toNat + r)).getLsbD (7 - c) = true

/-- A draw changes a pixel inside the 64 by 32 grid from set to unset (R202). -/
def spriteCollides (s : State) (x y : Reg) (n : Nat) : Prop :=
  ∃ row col : Nat, row < 32 ∧ col < 64 ∧ spritePixel s x y n row col ∧ s.fb.pixel row col = true

/-! ### What the sound timer can influence (R34) -/

/-- Two outcomes that differ at most in the value of the sound timer. -/
def sameButSound (o p : Outcome) : Prop :=
  match o, p with
  | .next s, .next t => t.setSt s.st = s
  | .fault e, .fault f => e = f
  | .refused r, .refused q => r = q
  | .next _, .fault _ | .next _, .refused _ | .fault _, .next _ | .fault _, .refused _ | .refused _, .next _
  | .refused _, .fault _ => False

/-! ### The invariant -/

/-- What every command keeps: the memory list is canonical (so all its addresses are below 4096, R51), `PC` is at most
0x10FE (R26), and every stack entry is a CALL's address plus 2, at most 0x1000 (R130). -/
structure State.Inv (s : State) : Prop where
  memory : s.mem.wf = true
  pcBound : s.pc.toNat ≤ 0x10FE
  stackBound : ∀ k : Fin 16, s.stack[k.val].toNat ≤ 0x1000

end Sys2Proof.Machine
end

