-- ==== Sys2Proof/Certificates/Slice0/Obligations.lean ====
section
/-! DEFINITION. The statements about GoChip8 CORE, for the provers. A statement about `exec i s` is about the execute stage:
`s` is the state as the fetch's advance left it, so `s.pc` is the fetch address plus 2 (R112, R114). -/

open Sys2Proof
open Sys2Proof.Machine

/-! ### Decoding and encoding -/

/-- Words written out from the map of R85 (and the vectors of 95_test_vectors.md section 2.1) decode to the instructions
they stand for, one of every family. The bit patterns are the spec's general knowledge (log 1). -/
def Obligations.SpecWordsDecode : Prop :=
  decode [0x00, 0xE0] = .instr .cls [] ∧ decode [0x00, 0xEE] = .instr .ret [] ∧
  decode [0x12, 0x34] = .instr (.jpNnn 0x234) [] ∧ decode [0x3A, 0x7F] = .instr (.seVxKk 0xA 0x7F) [] ∧
  decode [0x81, 0x2E] = .instr (.shlVxVy 1 2) [] ∧ decode [0xD1, 0x25] = .instr (.drwVxVyN 1 2 5) [] ∧
  decode [0xE1, 0xA1] = .instr (.sknpVx 1) [] ∧ decode [0xF1, 0x55] = .instr (.ldMemVx 1) [] ∧
  decode [0xF1, 0x0A] = .rejected (.unknownInstruction 0xF10A) ∧
  decode [0x51, 0x21] = .rejected (.unknownInstruction 0x5121)

/-- Decoding the word, or the bytes, of a well-formed instruction gives it back with every operand, for all 33. -/
def Obligations.DecodeOfEncodeIsIdentity : Prop :=
  ∀ (i : Instr) (rest : List Byte), i.wellFormed = true →
    decodeWord (encode i) = some i ∧ decode (encodeBytes i ++ rest) = .instr i rest

/-- A word that decodes is the encoding of a well-formed instruction, and of one only: no bit of it is dropped. -/
def Obligations.EncodeOfDecodeIsIdentity : Prop :=
  ∀ (w : Word) (i : Instr), decodeWord w = some i → encode i = w ∧ i.wellFormed = true

/-- R84: the decoder is the map of R85. A word decodes to the instruction of a row exactly when the row's masked bits
match; the patterns are pairwise disjoint; a word that matches no row is illegal (strict, D4, log 18). The bit patterns are
the spec's general knowledge (log 1). -/
def Obligations.DecoderIsTheOpcodeMap : Prop :=
  ∀ w : Word,
    (∀ i, decodeWord w = some i → ∃ r ∈ opcodeMap, r.number = i.rowNumber ∧ r.selects w = true) ∧
    (decodeWord w = none ↔ ∀ r ∈ opcodeMap, r.selects w = false) ∧
    (∀ r ∈ opcodeMap, ∀ q ∈ opcodeMap, r.selects w = true → q.selects w = true → r = q)

/-! ### The STEP command -/

/-- When the bytes at `PC` decode to an instruction, STEP is its execute stage on the state with `PC` advanced by 2 and
nothing else changed (R110 to R114). -/
def Obligations.StepRunsDecodedInstruction : Prop :=
  ∀ (s : State) (i : Instr), s.pc.toNat ≤ 0xFFE →
    decode [s.readByte s.pc.toNat, s.readByte (s.pc.toNat + 1)] = .instr i [] →
    step s = exec i s.advance ∧ s.advance.pc = s.pc + 2#16 ∧ onlyPc s s.advance

/-- R221: a word that matches none of the 33 patterns is reported, with the fetch address and the word; afterwards `PC` is
the fetch address plus 2 and nothing else has changed. The word 0x0000 is such a word. The patterns are the spec's
general knowledge (log 1), their strictness its decision D4 (log 18). -/
def Obligations.IllegalWordIsReported : Prop :=
  (∀ s : State, s.pc.toNat ≤ 0xFFE → (∀ r ∈ opcodeMap, r.selects s.wordAtPc = false) →
    step s = .fault (.errUnknownInstruction s.pc s.wordAtPc) ∧
    afterStep s = { s with pc := s.pc + 2#16 } ∧
    stepRecord s = ⟨some (.errUnknownInstruction s.pc s.wordAtPc), s.pc, some s.wordAtPc, none, false⟩) ∧
  (∀ r ∈ opcodeMap, r.selects 0x0000 = false)

/-- R225 (a) (spec decision D6): a fetch with `PC` above 0xFFE is reported, changes nothing at all, and a repeated STEP
reports it again. The report holds the first of `PC` and `PC + 1` above 0xFFF (R220) and `PC + 1` (log 9). The record (R117,
R118) has no operation and no redraw; that it has no word, where R117 calls the word undefined and not to be read, is the
model's choice (log 19). -/
def Obligations.FetchAboveMemoryIsReported : Prop :=
  ∀ s : State, 0xFFE < s.pc.toNat →
    step s = .fault (.errAddressRange s.pc (max s.pc.toNat 0x1000) (s.pc.toNat + 1)) ∧ afterStep s = s ∧
    stepRecord s =
      ⟨some (.errAddressRange s.pc (max s.pc.toNat 0x1000) (s.pc.toNat + 1)), s.pc, none, none, false⟩

/-- The complete list of the errors of STEP (R220, R116, R228; spec decisions D6, D7, D11): STEP reports an error exactly
when the list says so, and it is that one; it never refuses an instruction. A range error holds both the first offending
address and the highest (log 9). Errors are precise
(R227): the state left is the state before, with `PC` advanced by 2 unless the fetch itself failed. -/
def Obligations.StepErrorsAreExactlyTheListed : Prop :=
  ∀ s : State, (∀ e, step s = .fault e ↔ stepReports s e) ∧ (∀ r, step s ≠ .refused r) ∧
    (∀ e, step s = .fault e → afterStep s = if 0xFFE < s.pc.toNat then s else { s with pc := s.pc + 2#16 })

/-- R118 (spec decision D20): a STEP signals a redraw exactly when it succeeds and its instruction is CLS or DRW. -/
def Obligations.RedrawIsClsOrDrwThatSucceeded : Prop :=
  ∀ s : State, (stepRecord s).redraw = true ↔
    s.pc.toNat ≤ 0xFFE ∧ (∃ t, step s = .next t) ∧
      (decodeWord s.wordAtPc = some .cls ∨ ∃ x y n, decodeWord s.wordAtPc = some (.drwVxVyN x y n))

/-- R266 (spec decision D29): at a state where the run has ended, every further STEP leaves every piece of state
unchanged. -/
def Obligations.EndedRunIsAFixedPoint : Prop := ∀ s : State, s.ended → step s = .next s

/-! ### Register load, arithmetic, logic, shift, random (42_alu.md) -/

/-- R151, R152: LD Vx, kk writes `kk`; ADD Vx, kk writes the sum modulo 256 and touches no flag. -/
def Obligations.ImmediateLoadAndAdd : Prop :=
  ∀ (s : State) (x : Reg) (kk : Byte),
    (∃ t, exec (.ldVxKk x kk) s = .next t ∧ t.getV x = kk ∧ onlyRegs [x] s t) ∧
    (∃ t, exec (.addVxKk x kk) s = .next t ∧ (t.getV x).toNat = ((s.getV x).toNat + kk.toNat) % 256 ∧
      onlyRegs [x] s t)

/-- R153 to R156: LD Vx, Vy copies; OR, AND and XOR combine the two registers bit by bit; none sets `VF`. -/
def Obligations.MoveAndLogic : Prop :=
  ∀ (s : State) (x y : Reg),
    (∃ t, exec (.ldVxVy x y) s = .next t ∧ t.getV x = s.getV y ∧ onlyRegs [x] s t) ∧
    (∃ t, exec (.orVxVy x y) s = .next t ∧
      (∀ k < 8, (t.getV x).getLsbD k = ((s.getV x).getLsbD k || (s.getV y).getLsbD k)) ∧ onlyRegs [x] s t) ∧
    (∃ t, exec (.andVxVy x y) s = .next t ∧
      (∀ k < 8, (t.getV x).getLsbD k = ((s.getV x).getLsbD k && (s.getV y).getLsbD k)) ∧ onlyRegs [x] s t) ∧
    (∃ t, exec (.xorVxVy x y) s = .next t ∧
      (∀ k < 8, (t.getV x).getLsbD k = ((s.getV x).getLsbD k ^^ (s.getV y).getLsbD k)) ∧ onlyRegs [x] s t)

/-- R157: ADD Vx, Vy writes the sum modulo 256 and, unless `x` is 15, the carry into `VF`; with `x = 15` the sum is what
`VF` holds. Operands are the old values, also when `y` is 15. -/
def Obligations.AddSetsCarry : Prop :=
  ∀ (s : State) (x y : Reg), ∃ t, exec (.addVxVy x y) s = .next t ∧
    (t.getV x).toNat = ((s.getV x).toNat + (s.getV y).toNat) % 256 ∧
    (x ≠ VF → t.getV VF = if 255 < (s.getV x).toNat + (s.getV y).toNat then 1 else 0) ∧
    onlyRegs [x, VF] s t

/-- R158, R160: SUB and SUBN write the difference modulo 256 and, unless `x` is 15, the no-borrow flag into `VF`.
That the operands are the old values also when a field names `VF` is the spec's decision D9 (log 10). -/
def Obligations.SubtractSetsNoBorrow : Prop :=
  ∀ (s : State) (x y : Reg),
    (∃ t, exec (.subVxVy x y) s = .next t ∧
      ((t.getV x).toNat : Int) = ((s.getV x).toNat - (s.getV y).toNat : Int) % 256 ∧
      (x ≠ VF → t.getV VF = if (s.getV y).toNat ≤ (s.getV x).toNat then 1 else 0) ∧ onlyRegs [x, VF] s t) ∧
    (∃ t, exec (.subnVxVy x y) s = .next t ∧
      ((t.getV x).toNat : Int) = ((s.getV y).toNat - (s.getV x).toNat : Int) % 256 ∧
      (x ≠ VF → t.getV VF = if (s.getV x).toNat ≤ (s.getV y).toNat then 1 else 0) ∧ onlyRegs [x, VF] s t)

/-- R159, R161: SHR and SHL shift the source by one, `Vx` or, when `SHIFT_USES_VY`, `Vy`; unless `x` is 15, `VF` is the
bit shifted out. The true mode's detail is the spec's general knowledge (D10, log 21).
That the source is the old value also when a field names `VF` is the spec's decision D9 (log 10). -/
def Obligations.ShiftsByOne : Prop :=
  ∀ (s : State) (x y : Reg) (source : Byte),
    source = (if s.config.shiftUsesVy = true then s.getV y else s.getV x) →
    (∃ t, exec (.shrVxVy x y) s = .next t ∧ (t.getV x).toNat = source.toNat / 2 ∧
      (x ≠ VF → (t.getV VF).toNat = source.toNat % 2) ∧ onlyRegs [x, VF] s t) ∧
    (∃ t, exec (.shlVxVy x y) s = .next t ∧ (t.getV x).toNat = source.toNat * 2 % 256 ∧
      (x ≠ VF → (t.getV VF).toNat = source.toNat / 128) ∧ onlyRegs [x, VF] s t)

/-- R162 (spec decision D18): RND Vx, kk writes the supplied byte masked by `kk`, whatever the byte (a free value, log 6),
so no bit outside `kk` is set; the next RND takes the next byte. -/
def Obligations.RandomIsMaskedDraw : Prop :=
  ∀ (s : State) (x : Reg) (kk : Byte), ∃ t, exec (.rndVxKk x kk) s = .next t ∧
    t.getV x = Config.drawByte s.draws &&& kk ∧ (∀ k < 8, kk.getLsbD k = false → (t.getV x).getLsbD k = false) ∧
    (t.getV x).toNat ≤ kk.toNat ∧ t.draws = s.draws + 1 ∧
    sameRegsBut [x] s t ∧ t.i = s.i ∧ t.pc = s.pc ∧ sameStack s t ∧ sameTimers s t ∧ sameScreen s t ∧
    t.key = s.key ∧ t.config = s.config ∧ sameMemory s t

/-! ### Control transfer (41_control_flow.md) and key skips -/

/-- R131: JP nnn sets `PC` to the zero-extended address and changes nothing else. -/
def Obligations.JumpIsAbsolute : Prop :=
  ∀ (s : State) (nnn : BitVec 12), ∃ t, exec (.jpNnn nnn) s = .next t ∧ t.pc.toNat = nnn.toNat ∧ onlyPc s t

/-- R137 (spec decision D13): JP V0, nnn sets `PC` to `nnn + V[0]`, not reduced to 12 bits. -/
def Obligations.JumpWithOffset : Prop :=
  ∀ (s : State) (nnn : BitVec 12), ∃ t, exec (.jpV0Nnn nnn) s = .next t ∧
    t.pc.toNat = nnn.toNat + (s.getV 0).toNat ∧ onlyPc s t

/-- R132, R222: CALL pushes the address after it and jumps; with a full stack it raises `ErrStackOverflow` (the fetch
address is `PC - 2` in the execute stage), and the state that error leaves has `PC` at the fetch address plus 2 and nothing
else changed. -/
def Obligations.CallPushesReturnAddress : Prop :=
  (∀ (s : State) (nnn : BitVec 12),
    (s.sp.val < 16 → ∃ t, exec (.callNnn nnn) s = .next t ∧ t.stack[s.sp.val]? = some s.pc ∧
      (∀ k, k ≠ s.sp.val → t.stack[k]? = s.stack[k]?) ∧ t.sp.val = s.sp.val + 1 ∧ t.pc.toNat = nnn.toNat ∧
      onlyPcAndStack s t) ∧
    (s.sp.val = 16 → exec (.callNnn nnn) s = .fault (.errStackOverflow (s.pc - 2#16)))) ∧
  (∀ (s : State) (nnn : BitVec 12), s.pc.toNat ≤ 0xFFE → decodeWord s.wordAtPc = some (.callNnn nnn) → s.sp.val = 16 →
    step s = .fault (.errStackOverflow s.pc) ∧ afterStep s = { s with pc := s.pc + 2#16 })

/-- R130, R223: RET takes `PC` from the top entry, which keeps its value; with an empty stack it raises
`ErrStackUnderflow`, and the state that error leaves has `PC` at the fetch address plus 2 and nothing else changed. Since
only CALL writes the stack, the popped value is at most 0x1000: so in every state that meets the invariant. -/
def Obligations.ReturnPopsReturnAddress : Prop :=
  (∀ s : State,
    (0 < s.sp.val → ∃ t, exec .ret s = .next t ∧ s.stack[s.sp.val - 1]? = some t.pc ∧ t.sp.val = s.sp.val - 1 ∧
      t.stack = s.stack ∧ onlyPcAndStack s t ∧ (s.Inv → t.pc.toNat ≤ 0x1000)) ∧
    (s.sp.val = 0 → exec .ret s = .fault (.errStackUnderflow (s.pc - 2#16)))) ∧
  (∀ s : State, s.pc.toNat ≤ 0xFFE → decodeWord s.wordAtPc = some .ret → s.sp.val = 0 →
    step s = .fault (.errStackUnderflow s.pc) ∧ afterStep s = { s with pc := s.pc + 2#16 })

/-- The source's property in R130: a CALL and then a RET, wherever it is fetched from, restore `PC` to the instruction
after the CALL and the stack pointer to its value before it. -/
def Obligations.CallThenReturnRestores : Prop :=
  ∀ (s : State) (nnn : BitVec 12) (p : Word), s.sp.val < 16 →
    ∃ t u, exec (.callNnn nnn) s = .next t ∧ exec .ret (t.setPc p) = .next u ∧ u.pc = s.pc ∧ u.sp = s.sp ∧
      onlyPcAndStack s u

/-- R133 to R136: the four register skips add 2 to `PC` exactly when their condition holds, and change nothing else. -/
def Obligations.RegisterSkips : Prop :=
  ∀ (s : State) (x y : Reg) (kk : Byte),
    (∃ t, exec (.seVxKk x kk) s = .next t ∧
      t.pc.toNat = (if (s.getV x).toNat = kk.toNat then (s.pc.toNat + 2) % 65536 else s.pc.toNat) ∧ onlyPc s t) ∧
    (∃ t, exec (.sneVxKk x kk) s = .next t ∧
      t.pc.toNat = (if (s.getV x).toNat ≠ kk.toNat then (s.pc.toNat + 2) % 65536 else s.pc.toNat) ∧ onlyPc s t) ∧
    (∃ t, exec (.seVxVy x y) s = .next t ∧
      t.pc.toNat = (if (s.getV x).toNat = (s.getV y).toNat then (s.pc.toNat + 2) % 65536 else s.pc.toNat) ∧
      onlyPc s t) ∧
    (∃ t, exec (.sneVxVy x y) s = .next t ∧
      t.pc.toNat = (if (s.getV x).toNat ≠ (s.getV y).toNat then (s.pc.toNat + 2) % 65536 else s.pc.toNat) ∧
      onlyPc s t)

/-- R210, R211: the key skips test the key named by the low nibble of `Vx`, the high nibble ignored, and change nothing
but `PC`. -/
def Obligations.KeySkips : Prop :=
  ∀ (s : State) (x k : Reg), k.val = (s.getV x).toNat % 16 →
    (∃ t, exec (.skpVx x) s = .next t ∧
      t.pc.toNat = (if s.getKey k = true then (s.pc.toNat + 2) % 65536 else s.pc.toNat) ∧ onlyPc s t) ∧
    (∃ t, exec (.sknpVx x) s = .next t ∧
      t.pc.toNat = (if s.getKey k = false then (s.pc.toNat + 2) % 65536 else s.pc.toNat) ∧ onlyPc s t)

/-! ### Index register and memory (43_index_memory.md) -/

/-- R180: LD I, nnn writes the zero-extended address to `I` and changes nothing else. -/
def Obligations.LoadIndex : Prop :=
  ∀ (s : State) (nnn : BitVec 12), ∃ t, exec (.ldINnn nnn) s = .next t ∧ t.i.toNat = nnn.toNat ∧ onlyIndex s t

/-- R181 (spec decision D12 for the wrap): ADD I, Vx adds modulo 65536; `VF` is not written; it never fails. -/
def Obligations.AddToIndex : Prop :=
  ∀ (s : State) (x : Reg), ∃ t, exec (.addIVx x) s = .next t ∧
    t.i.toNat = (s.i.toNat + (s.getV x).toNat) % 65536 ∧ onlyIndex s t

/-- R182 (spec decision D11): LD F, Vx sets `I` to five times the digit; a value above 15 raises `ErrGlyphIndex`. -/
def Obligations.GlyphAddress : Prop :=
  ∀ (s : State) (x : Reg),
    ((s.getV x).toNat ≤ 15 → ∃ t, exec (.ldFVx x) s = .next t ∧ t.i.toNat = 5 * (s.getV x).toNat ∧ onlyIndex s t) ∧
    (15 < (s.getV x).toNat → exec (.ldFVx x) s = .fault (.errGlyphIndex (s.pc - 2#16) (s.getV x)))

/-- R183 (spec decisions D6, D12): LD B, Vx stores hundreds, tens and units at `I`, `I + 1`, `I + 2` and changes nothing
else; it raises `ErrAddressRange` when `I + 2` is above 0xFFF, with the first offending address (R220) and with
`I + 2`, the pseudocode's argument (log 9: the model holds both). The premise on the memory list is the model's canonical
form, kept by every step (StepKeepsInvariant). -/
def Obligations.StoreDecimalDigits : Prop :=
  ∀ (s : State) (x : Reg), s.mem.wf = true →
    (s.i.toNat + 2 ≤ 0xFFF → ∃ t, exec (.ldBVx x) s = .next t ∧
      (t.readByte s.i.toNat).toNat = (s.getV x).toNat / 100 ∧
      (t.readByte (s.i.toNat + 1)).toNat = (s.getV x).toNat / 10 % 10 ∧
      (t.readByte (s.i.toNat + 2)).toNat = (s.getV x).toNat % 10 ∧
      onlyMemory s.i.toNat 3 s t ∧ t.mem.wf = true) ∧
    (0xFFF < s.i.toNat + 2 → exec (.ldBVx x) s =
      .fault (.errAddressRange (s.pc - 2#16) (max s.i.toNat 0x1000) (s.i.toNat + 2)))

/-- R184 (spec decisions D6, D12): LD [I], Vx stores `V[0]` to `V[x]`, `x` included, at `I` upward and changes nothing
else; it raises `ErrAddressRange`, with no byte written, when `I + x` is above 0xFFF, with the first offending address
(R220) and with `I + x`, the pseudocode's argument (log 9: the model holds both). -/
def Obligations.StoreRegisterRange : Prop :=
  ∀ (s : State) (x : Reg), s.mem.wf = true →
    (s.i.toNat + x.val ≤ 0xFFF → ∃ t, exec (.ldMemVx x) s = .next t ∧
      (∀ k : Reg, k ≤ x → t.readByte (s.i.toNat + k.val) = s.getV k) ∧
      onlyMemory s.i.toNat (x.val + 1) s t ∧ t.mem.wf = true) ∧
    (0xFFF < s.i.toNat + x.val → exec (.ldMemVx x) s =
      .fault (.errAddressRange (s.pc - 2#16) (max s.i.toNat 0x1000) (s.i.toNat + x.val)))

/-- R185 (spec decisions D6, D12): LD Vx, [I] loads `V[0]` to `V[x]`, `x` included, from `I` upward and changes nothing
else; it raises `ErrAddressRange` when `I + x` is above 0xFFF, with the first offending address (R220) and with `I + x`,
the pseudocode's argument (log 9: the model holds both). -/
def Obligations.LoadRegisterRange : Prop :=
  ∀ (s : State) (x : Reg),
    (s.i.toNat + x.val ≤ 0xFFF → ∃ t, exec (.ldVxMem x) s = .next t ∧
      (∀ k : Reg, k ≤ x → t.getV k = s.readByte (s.i.toNat + k.val)) ∧ (∀ k : Reg, x < k → t.getV k = s.getV k) ∧
      t.i = s.i ∧ t.pc = s.pc ∧ sameStack s t ∧ sameTimers s t ∧ sameScreen s t ∧ sameInputs s t ∧ sameMemory s t) ∧
    (0xFFF < s.i.toNat + x.val → exec (.ldVxMem x) s =
      .fault (.errAddressRange (s.pc - 2#16) (max s.i.toNat 0x1000) (s.i.toNat + x.val)))

/-- The source's property in R185: a range store and then the matching range load, into any register values and from any
`PC`, gives back every stored register, `x` included. That neither instruction changes `I`, so that the load finds the
stored bytes, is the spec's decision D12 (log 13). -/
def Obligations.RangeStoreThenLoadRoundTrips : Prop :=
  ∀ (s : State) (x : Reg) (regs : Vector Byte 16) (p : Word), s.mem.wf = true → s.i.toNat + x.val ≤ 0xFFF →
    ∃ t u, exec (.ldMemVx x) s = .next t ∧ exec (.ldVxMem x) { t with v := regs, pc := p } = .next u ∧
      (∀ k : Reg, k ≤ x → u.getV k = s.getV k) ∧ (∀ k : Reg, x < k → u.getV k = regs[k.val]) ∧ u.i = s.i

/-- R62 (spec decision D30): a store is seen by the next fetch. After LD [I], Vx a fetch from two stored addresses gives
the word made of the two registers stored there. -/
def Obligations.StoreIsSeenByNextFetch : Prop :=
  ∀ (s : State) (x : Reg) (k : Nat) (hk : k + 1 ≤ x.val) (p : Word), s.mem.wf = true → s.i.toNat + x.val ≤ 0xFFF →
    p.toNat = s.i.toNat + k →
    ∃ t, exec (.ldMemVx x) s = .next t ∧
      fetchWord (t.setPc p) = some (wordOfBytes (s.getV ⟨k, by omega⟩) (s.getV ⟨k + 1, by omega⟩))

/-- The canonical form means what it says: two canonical memories in which every byte reads the same are the same list. -/
def Obligations.EqualReadsMeanEqualMemories : Prop :=
  ∀ m n : Memory, m.wf = true → n.wf = true → (∀ a, m.read a = n.read a) → m = n

/-! ### The framebuffer (44_display.md) -/

/-- R201: CLS unsets all 2048 pixels and writes nothing else, `VF` included; a STEP that runs it always signals a redraw. -/
def Obligations.ClearScreen : Prop :=
  (∀ s : State, ∃ t, exec .cls s = .next t ∧ (∀ row col, t.fb.pixel row col = false) ∧ onlyScreenAndRegs [] s t) ∧
  (∀ s : State, s.pc.toNat ≤ 0xFFE → decodeWord s.wordAtPc = some .cls → (stepRecord s).redraw = true)

/-- R202 (spec decisions D6, D21), pixel by pixel: inside the grid a pixel is inverted where a sprite bit of 1 lands and is
as before elsewhere; `VF` becomes 1 if a pixel went from set to unset, else 0; nothing else changes. A sprite that would
read above 0xFFF raises `ErrAddressRange`, with the first offending address (R220) and with `I + n - 1`, the pseudocode's
argument (log 9: the model holds both); one of height 0 never does. A height above 15, which no word encodes, follows the
same rule by the model's choice (log 24). -/
def Obligations.DrawIsExclusiveOrWithCollision : Prop :=
  ∀ (s : State) (x y : Reg) (n : Nat),
    ((n = 0 ∨ s.i.toNat + n - 1 ≤ 0xFFF) → ∃ t, exec (.drwVxVyN x y n) s = .next t ∧
      (∀ row col, row < 32 → col < 64 → spritePixel s x y n row col → t.fb.pixel row col = !s.fb.pixel row col) ∧
      (∀ row col, row < 32 → col < 64 → ¬ spritePixel s x y n row col → t.fb.pixel row col = s.fb.pixel row col) ∧
      (spriteCollides s x y n → t.getV VF = 1) ∧ (¬ spriteCollides s x y n → t.getV VF = 0) ∧
      onlyScreenAndRegs [VF] s t) ∧
    (1 ≤ n → 0xFFF < s.i.toNat + n - 1 →
      exec (.drwVxVyN x y n) s = .fault (.errAddressRange (s.pc - 2#16) (max s.i.toNat 0x1000) (s.i.toNat + n - 1)))

/-- R203 (a), and R202 applied twice: the same DRW twice restores every pixel, and the second leaves `VF` at 1 exactly when
a sprite bit of 1 landed inside the grid on a pixel that was unset before the first. (R203 (b) leaves the last clause out;
by R202 it is needed: log 22.) The range of `n` is as in DrawIsExclusiveOrWithCollision (D6, D21, log 24). The position
registers are not `VF`, which the first draw overwrites (R203). -/
def Obligations.DrawTwiceRestoresScreen : Prop :=
  ∀ (s : State) (x y : Reg) (n : Nat), x ≠ VF → y ≠ VF → (n = 0 ∨ s.i.toNat + n - 1 ≤ 0xFFF) →
    ∃ t u, exec (.drwVxVyN x y n) s = .next t ∧ exec (.drwVxVyN x y n) t = .next u ∧ u.fb = s.fb ∧
      ((∃ row col, row < 32 ∧ col < 64 ∧ spritePixel s x y n row col ∧ s.fb.pixel row col = false) →
        u.getV VF = 1) ∧
      ((¬ ∃ row col, row < 32 ∧ col < 64 ∧ spritePixel s x y n row col ∧ s.fb.pixel row col = false) →
        u.getV VF = 0)

/-- R203 (b) word for word: on the second of two equal draws `VF` is 1 if and only if at least one sprite bit of 1 landed
inside the grid. EXPECTED TO FAIL: where every such pixel was set before the first draw, the first unsets them and the
second only sets pixels, so by R202 `VF` is 0 (log 22). The range of `n` is as in DrawIsExclusiveOrWithCollision (log 24). -/
def Obligations.SecondDrawCollidesWheneverSpriteIsVisible : Prop :=
  ∀ (s t u : State) (x y : Reg) (n : Nat), x ≠ VF → y ≠ VF →
    exec (.drwVxVyN x y n) s = .next t → exec (.drwVxVyN x y n) t = .next u →
    (u.getV VF = 1 ↔ ∃ row col, row < 32 ∧ col < 64 ∧ spritePixel s x y n row col)

/-! ### Timers and keys (45_keys_timers.md, 60_exceptions.md) -/

/-- R213, R214: LD DT, Vx and LD ST, Vx copy `Vx` into the timer and change nothing else; the output `sound_on` follows
`ST` at once. -/
def Obligations.TimerWrites : Prop :=
  ∀ (s : State) (x : Reg),
    (∃ t, exec (.ldDtVx x) s = .next t ∧ t.dt = s.getV x ∧ t.st = s.st ∧ onlyTimers s t) ∧
    (∃ t, exec (.ldStVx x) s = .next t ∧ t.st = s.getV x ∧ t.dt = s.dt ∧
      (soundOn t = true ↔ (s.getV x).toNat ≠ 0) ∧ onlyTimers s t)

/-- R212 (spec decision D16: the timer is 8 bits, so nothing is truncated): LD Vx, DT copies the delay timer into `Vx` and
does not change it. -/
def Obligations.TimerRead : Prop :=
  ∀ (s : State) (x : Reg), ∃ t, exec (.ldVxDt x) s = .next t ∧ t.getV x = s.dt ∧ onlyRegs [x] s t

/-- R236: TICK lowers each timer by 1, independently, clamped at 0, and changes nothing else; it cannot fail. -/
def Obligations.TickCountsDown : Prop :=
  ∀ s : State, ∃ t, perform .tick s = .next t ∧ t.dt.toNat = s.dt.toNat - 1 ∧ t.st.toNat = s.st.toNat - 1 ∧
    onlyTimers s t

/-- R237: after `n` TICKs a timer that held `v` reads `max(v - n, 0)` (Nat subtraction is that). -/
def Obligations.TimersAfterManyTicks : Prop :=
  ∀ (n : Nat) (s : State), ∃ t, runSchedule (List.replicate n .tick) s = .next t ∧
    t.dt.toNat = s.dt.toNat - n ∧ t.st.toNat = s.st.toNat - n ∧ onlyTimers s t

/-- R239 (spec decision D23): SETKEY writes the one flag it names and nothing else; it cannot fail. -/
def Obligations.SetKeyWritesOneFlag : Prop :=
  ∀ (s : State) (k : Reg) (pressed : Bool), ∃ t, perform (.setKey k pressed) s = .next t ∧ t.getKey k = pressed ∧
    (∀ j : Reg, j ≠ k → t.getKey j = s.getKey j) ∧ t.pc = s.pc ∧ t.config = s.config ∧ t.draws = s.draws ∧
    sameRegsBut [] s t ∧ t.i = s.i ∧ sameStack s t ∧ sameTimers s t ∧ sameScreen s t ∧ sameMemory s t

/-! ### LOAD and RESET -/

/-- R241, R242 (spec decision D15): LOAD stores the image from 0x200 up and changes nothing else; an image of more than
3584 bytes is rejected and nothing is written. -/
def Obligations.LoadStoresTheImage : Prop :=
  ∀ (s : State) (image : List Byte), s.mem.wf = true →
    (image.length ≤ 3584 → ∃ t, perform (.load image) s = .next t ∧
      (∀ (k : Nat) (hk : k < image.length), t.readByte (0x200 + k) = image[k]) ∧
      onlyMemory 0x200 image.length s t ∧ t.mem.wf = true) ∧
    (3584 < image.length → perform (.load image) s = .fault (.errImageTooLarge image.length) ∧
      afterCommand (.load image) s = s)

/-- R260, R36, R53 (the zero values are the spec's decision D14, the glyph bytes its general knowledge, log 2, log 3; that
the strap and the count of draws are kept is R262 and log 6): RESET, from any state. -/
def Obligations.ResetRestoresEverything : Prop :=
  ∀ s : State, ∃ t, perform .reset s = .next t ∧ t.pc.toNat = 0x200 ∧ t.i.toNat = 0 ∧ t.sp.val = 0 ∧
    t.dt.toNat = 0 ∧ t.st.toNat = 0 ∧ (∀ r : Reg, (t.getV r).toNat = 0) ∧ (∀ k : Reg, t.getKey k = false) ∧
    (∀ k : Fin 16, t.stack[k.val].toNat = 0) ∧ (∀ row col, t.fb.pixel row col = false) ∧
    (∀ (a : Nat) (h : a < glyphTable.length), t.readByte a = glyphTable[a]) ∧ glyphTable.length = 80 ∧
    (∀ a, 0x50 ≤ a → (t.readByte a).toNat = 0) ∧ t.config = s.config ∧ t.draws = s.draws

/-- R261, R264: after RESET and then LOAD of an image of two bytes or more, the word that STEP fetches first is the image's
first two bytes, the first one high; bytes beyond the image are zero (spec decisions D14 and D15, log 3, log 25). -/
def Obligations.LaunchFetchesFirstImageWord : Prop :=
  ∀ (s : State) (hi lo : Byte) (rest : List Byte), (hi :: lo :: rest).length ≤ 3584 →
    ∃ t, runSchedule [.reset, .load (hi :: lo :: rest)] s = .next t ∧ t.pc.toNat = 0x200 ∧
      fetchWord t = some (wordOfBytes hi lo) ∧
      (∀ a, 0x200 + (hi :: lo :: rest).length ≤ a → (t.readByte a).toNat = 0)

/-! ### Whole-machine rules -/

/-- The invariant holds right after RESET. -/
def Obligations.ResetMeetsInvariant : Prop := State.reset.Inv

/-- Every STEP that answers a next state keeps the invariant: the memory list stays canonical and inside 4096 bytes (R51),
`PC` stays at most 0x10FE (R26), and every stack entry stays at most 0x1000 (R130). That `PC` is not
reduced is the spec's decision D13 (log 14). -/
def Obligations.StepKeepsInvariant : Prop := ∀ s t : State, s.Inv → step s = .next t → t.Inv

/-- Every schedule of commands keeps the invariant, whether the run stops at the first error (R229) or the environment
ignores every error and continues (R227, R231). -/
def Obligations.SchedulesKeepInvariant : Prop :=
  ∀ (cs : List Command) (s : State), s.Inv →
    (∀ t, runSchedule cs s = .next t → t.Inv) ∧ (runIgnoringErrors cs s).Inv

/-- R114, R21 to R23: an instruction writes no V register but its destination, `VF` for the six flag writers, and `V0` to
`Vx` for the range load; so there are no spurious flag writes. -/
def Obligations.RegistersWrittenOnlyByTheirInstructions : Prop :=
  ∀ (s t : State) (i : Instr) (r : Reg), step s = .next t → decodeWord s.wordAtPc = some i → mayWriteV i r = false →
    t.getV r = s.getV r

/-- R24, R27, R29, R30, R32: of all instructions only LD I, ADD I and LD F change `I`; only CALL writes a stack entry; only
CALL and RET move `SP`; only LD DT changes `DT`; only LD ST changes `ST`; none changes a key. -/
def Obligations.SpecialRegistersWrittenOnlyByTheirInstructions : Prop :=
  ∀ (s t : State) (i : Instr), step s = .next t → decodeWord s.wordAtPc = some i →
    ((∀ nnn, i ≠ .ldINnn nnn) → (∀ x, i ≠ .addIVx x) → (∀ x, i ≠ .ldFVx x) → t.i = s.i) ∧
    ((∀ nnn, i ≠ .callNnn nnn) → t.stack = s.stack) ∧
    ((∀ nnn, i ≠ .callNnn nnn) → i ≠ .ret → t.sp = s.sp) ∧
    ((∀ x, i ≠ .ldDtVx x) → t.dt = s.dt) ∧ ((∀ x, i ≠ .ldStVx x) → t.st = s.st) ∧ t.key = s.key

/-- R31, R58, R64: of all instructions only LD B and LD [I], Vx change memory, and only CLS and DRW change a pixel. -/
def Obligations.MemoryAndScreenWrittenOnlyByTheirInstructions : Prop :=
  ∀ (s t : State) (i : Instr), step s = .next t → decodeWord s.wordAtPc = some i →
    ((∀ x, i ≠ .ldBVx x) → (∀ x, i ≠ .ldMemVx x) → t.mem = s.mem) ∧
    (i ≠ .cls → (∀ x y n, i ≠ .drwVxVyN x y n) → t.fb = s.fb)

/-- R26: after a STEP that succeeds `PC` is the fetch address plus 2, or plus 4 for a skip, but for RET, JP, CALL and
JP V0; there are no delay slots (R138). That `PC` is not reduced is the spec's decision D13 (log 14). -/
def Obligations.ProgramCounterFollows : Prop :=
  ∀ (s t : State) (i : Instr), step s = .next t → decodeWord s.wordAtPc = some i →
    i ≠ .ret → (∀ nnn, i ≠ .jpNnn nnn) → (∀ nnn, i ≠ .callNnn nnn) → (∀ nnn, i ≠ .jpV0Nnn nnn) →
    t.pc.toNat = s.pc.toNat + 2 ∨
      (t.pc.toNat = s.pc.toNat + 4 ∧ i.rowNumber ∈ [5, 6, 7, 19, 24, 25])

/-- R9, R262: the strap `SHIFT_USES_VY` is changed by no command, RESET included, errors ignored or not. That it stands in
the state is the model's choice (log 5). -/
def Obligations.StrapIsFixedForTheSession : Prop :=
  ∀ (cs : List Command) (s : State),
    (∀ t, runSchedule cs s = .next t → t.config = s.config) ∧ (runIgnoringErrors cs s).config = s.config

/-- R34: a program cannot read `ST` at all. Two runs of any schedule from states that differ only in the sound timer end
alike, and differ at most in the sound timer. Both runs are supplied the same random bytes: the model reads its free value
at the same count in both (DESIGN CHOICE, log 6, unsafe for claims that compare two runs); of hardware the statement says
this for equal supplies only. -/
def Obligations.SoundTimerIsUnobservable : Prop :=
  ∀ (cs : List Command) (s : State) (b : Byte), sameButSound (runSchedule cs s) (runSchedule cs (s.setSt b))
end

