-- ==== Sys2Proof/Laws/Decode.lean ====
section
/-! SUPPORT. The fields of the words the encoder builds, words as the join of their fields, and masks over joins. -/

namespace Sys2Proof

@[simp] theorem regBits_toFin (x : Reg) : (regBits x).toFin = x := rfl

@[simp] theorem regBits_of_toFin (b : BitVec 4) : regBits b.toFin = b := rfl

/-! ### Fields of format A -/

@[simp] theorem opField_formatA (op : BitVec 4) (nnn : BitVec 12) : opField (formatA op nnn) = op :=
  BitVec.extractLsb'_append_eq_left

@[simp] theorem nnnField_formatA (op : BitVec 4) (nnn : BitVec 12) : nnnField (formatA op nnn) = nnn :=
  BitVec.extractLsb'_append_eq_right

/-! ### Fields of format RI -/

/-- The high byte of a two-byte word, cut at any place, comes from the first byte. -/
theorem extract_of_first (hi lo : Byte) (start : Nat) :
    (hi ++ lo : Word).extractLsb' (8 + start) 4 = hi.extractLsb' start 4 := by
  ext i hi'
  simp only [BitVec.getElem_extractLsb', BitVec.getLsbD_append]
  rw [if_neg (by omega)]
  congr 1; omega

@[simp] theorem opField_formatRI (op : BitVec 4) (x : Reg) (kk : Byte) : opField (formatRI op x kk) = op := by
  rw [opField, formatRI, extract_of_first _ _ 4]
  exact BitVec.extractLsb'_append_eq_left

@[simp] theorem xField_formatRI (op : BitVec 4) (x : Reg) (kk : Byte) : xField (formatRI op x kk) = x := by
  have h : (op ++ regBits x : Byte).extractLsb' 0 4 = regBits x := BitVec.extractLsb'_append_eq_right
  rw [xField, formatRI, extract_of_first _ _ 0, h, regBits_toFin]

@[simp] theorem kkField_formatRI (op : BitVec 4) (x : Reg) (kk : Byte) : kkField (formatRI op x kk) = kk :=
  BitVec.extractLsb'_append_eq_right

/-! ### Fields of format RRN (format RR when `n` is fixed) -/

theorem formatRRN_eq_formatRI (op : BitVec 4) (x y : Reg) (n : BitVec 4) :
    formatRRN op x y n = formatRI op x (regBits y ++ n : Byte) := rfl

@[simp] theorem opField_formatRRN (op : BitVec 4) (x y : Reg) (n : BitVec 4) : opField (formatRRN op x y n) = op := by
  rw [formatRRN_eq_formatRI, opField_formatRI]

@[simp] theorem xField_formatRRN (op : BitVec 4) (x y : Reg) (n : BitVec 4) : xField (formatRRN op x y n) = x := by
  rw [formatRRN_eq_formatRI, xField_formatRI]

/-- The fields `y` and `n` are the two halves of `kk` (R81). -/
theorem halves_of_kkField (w : Word) :
    (kkField w).extractLsb' 4 4 = w.extractLsb' 4 4 ∧ (kkField w).extractLsb' 0 4 = nField w := by
  constructor <;> (ext i hi; simp only [kkField, nField, BitVec.getElem_extractLsb', BitVec.getLsbD_extractLsb'];
                   simp; omega)

@[simp] theorem yField_formatRRN (op : BitVec 4) (x y : Reg) (n : BitVec 4) : yField (formatRRN op x y n) = y := by
  have h : (regBits y ++ n : Byte).extractLsb' 4 4 = regBits y := BitVec.extractLsb'_append_eq_left
  rw [yField, ← (halves_of_kkField _).1, formatRRN_eq_formatRI, kkField_formatRI, h, regBits_toFin]

@[simp] theorem nField_formatRRN (op : BitVec 4) (x y : Reg) (n : BitVec 4) : nField (formatRRN op x y n) = n := by
  rw [← (halves_of_kkField _).2, formatRRN_eq_formatRI, kkField_formatRI]
  exact BitVec.extractLsb'_append_eq_right

/-! ### A word is the join of its fields (R81) -/

theorem word_eq_formatA (w : Word) : w = formatA (opField w) (nnnField w) := by
  exact (BitVec.extractLsb'_append_extractLsb' (w := 4) (len := 12) (x := w)).symm

theorem word_eq_formatRI (w : Word) : w = formatRI (opField w) (xField w) (kkField w) := by
  have h : (opField w ++ regBits (xField w) : Byte) = w.extractLsb' 8 8 := by
    rw [xField, regBits_of_toFin, opField]
    exact BitVec.extractLsb'_append_extractLsb'_eq_extractLsb' (by rfl)
  rw [formatRI, h]
  exact (BitVec.extractLsb'_append_extractLsb' (w := 8) (len := 8) (x := w)).symm

theorem word_eq_formatRRN (w : Word) : w = formatRRN (opField w) (xField w) (yField w) (nField w) := by
  have h : (regBits (yField w) ++ nField w : Byte) = kkField w := by
    rw [yField, regBits_of_toFin, nField, kkField]
    exact BitVec.extractLsb'_append_extractLsb'_eq_extractLsb' (by rfl)
  rw [formatRRN_eq_formatRI, h]
  exact word_eq_formatRI w

/-! ### Bytes of a word (R55) -/

@[simp] theorem wordOfBytes_high_low (w : Word) : wordOfBytes (highByte w) (lowByte w) = w :=
  BitVec.extractLsb'_append_extractLsb' (w := 8) (len := 8) (x := w)

@[simp] theorem highByte_wordOfBytes (hi lo : Byte) : highByte (wordOfBytes hi lo) = hi :=
  BitVec.extractLsb'_append_eq_left

@[simp] theorem lowByte_wordOfBytes (hi lo : Byte) : lowByte (wordOfBytes hi lo) = lo :=
  BitVec.extractLsb'_append_eq_right

/-- The byte decoder on the two bytes of a word is the word decoder. -/
theorem decode_bytes (w : Word) (rest : List Byte) : decode (highByte w :: lowByte w :: rest) =
    match decodeWord w with
    | some i => .instr i rest
    | none => .rejected (.unknownInstruction w) := by
  cases h : decodeWord w <;> simp only [decode, wordOfBytes_high_low, h]

/-! ### Masks over the formats (R82) -/

theorem and_mask_op (op : BitVec 4) (rest : BitVec 12) : formatA op rest &&& 0xF000#16 = formatA op 0#12 := by
  have h : (0xF000#16 : Word) = formatA 0xF#4 0x000#12 := by decide
  have ho : op &&& 0xF#4 = op := BitVec.and_allOnes
  rw [h, formatA, formatA, formatA, BitVec.and_append, ho, BitVec.and_zero]

theorem and_mask_minor (op : BitVec 4) (x y : Reg) (n : BitVec 4) :
    formatRRN op x y n &&& 0xF00F#16 = formatRRN op 0 0 n := by
  have h : (0xF00F#16 : Word) = formatRRN 0xF#4 0 0 0xF#4 := by decide
  have ho : op &&& 0xF#4 = op := BitVec.and_allOnes
  have hn : n &&& 0xF#4 = n := BitVec.and_allOnes
  have hz : regBits 0 = 0#4 := rfl
  rw [h, formatRRN, formatRRN, formatRRN, BitVec.and_append, BitVec.and_append, BitVec.and_append, ho, hn, hz,
    BitVec.and_zero, BitVec.and_zero]

theorem and_mask_byte (op : BitVec 4) (x : Reg) (kk : Byte) :
    formatRI op x kk &&& 0xF0FF#16 = formatRI op 0 kk := by
  have h : (0xF0FF#16 : Word) = formatRI 0xF#4 0 0xFF#8 := by decide
  have ho : op &&& 0xF#4 = op := BitVec.and_allOnes
  have hk : kk &&& 0xFF#8 = kk := BitVec.and_allOnes
  have hz : regBits 0 = 0#4 := rfl
  rw [h, formatRI, formatRI, formatRI, BitVec.and_append, BitVec.and_append, ho, hk, hz, BitVec.and_zero]

/-- Every format begins with the major opcode, so the mask of format A reads it from each. -/
theorem and_mask_op_formatRI (op : BitVec 4) (x : Reg) (kk : Byte) :
    formatRI op x kk &&& 0xF000#16 = formatA op 0#12 := by
  rw [word_eq_formatA (formatRI op x kk), and_mask_op, opField_formatRI]

theorem and_mask_op_formatRRN (op : BitVec 4) (x y : Reg) (n : BitVec 4) :
    formatRRN op x y n &&& 0xF000#16 = formatA op 0#12 := by
  rw [formatRRN_eq_formatRI, and_mask_op_formatRI]

end Sys2Proof
end

