-- ==== Sys2Proof/Laws/Display.lean ====
section
/-! SUPPORT. The framebuffer, pixel by pixel: what a sprite byte lands on, one drawn row, and a cleared screen. -/

namespace Sys2Proof.Machine

/-- The pixels of a sprite byte as R200 and R202 give them: column `x0 + c` shows bit `7 - c`, for `c` in 0 to 7, and
columns past 63 are dropped. -/
theorem spriteRow_pixel (b : Byte) (x0 col : Nat) :
    (spriteRow b x0).getMsbD col = (decide (x0 ≤ col ∧ col < x0 + 8 ∧ col < 64) && b.getMsbD (col - x0)) := by
  simp only [spriteRow, BitVec.getMsbD_ushiftRight, BitVec.getMsbD_shiftLeft, BitVec.getMsbD_setWidth]
  by_cases h1 : x0 ≤ col <;> by_cases h2 : col < x0 + 8 <;> by_cases h3 : col < 64 <;>
    simp [h1, h2, h3]
  exact BitVec.getMsbD_of_ge b (col - x0) (by omega)

/-- Clearing leaves no pixel set (R201). -/
@[simp] theorem FrameBuffer.pixel_clear (row col : Nat) : FrameBuffer.clear.pixel row col = false := by
  unfold FrameBuffer.pixel FrameBuffer.clear
  split <;> simp

/-- One drawn row changes the pixels of its own row only, each by exclusive OR with the sprite's pixel. -/
theorem FrameBuffer.drawRow_pixel (f : FrameBuffer) (x0 top : Nat) (b : Byte) (row col : Nat) :
    (f.drawRow x0 top b).1.pixel row col =
      if row = top then (f.pixel row col ^^ (decide (row < 32) && (spriteRow b x0).getMsbD col)) else f.pixel row col := by
  unfold FrameBuffer.drawRow FrameBuffer.pixel
  by_cases ht : top < 32 <;> by_cases hr : row < 32 <;> by_cases h : row = top
  all_goals simp [ht, hr, h]
  all_goals rw [Vector.getElem_set_ne]; omega

/-- A draw of no byte changes nothing and has no collision (R202, `n = 0`). -/
@[simp] theorem FrameBuffer.draw_nil (f : FrameBuffer) (x0 top : Nat) : f.draw x0 top [] = (f, false) := rfl

theorem FrameBuffer.draw_cons (f : FrameBuffer) (x0 top : Nat) (b : Byte) (bs : List Byte) :
    f.draw x0 top (b :: bs) =
      (((f.drawRow x0 top b).1.draw x0 (top + 1) bs).1,
        (f.drawRow x0 top b).2 || ((f.drawRow x0 top b).1.draw x0 (top + 1) bs).2) := rfl

/-- Two framebuffers with the same pixels are equal. -/
theorem FrameBuffer.ext_pixel {f g : FrameBuffer} (h : ∀ row col : Nat, f.pixel row col = g.pixel row col) : f = g := by
  refine Vector.ext fun r hr => BitVec.eq_of_getMsbD_eq fun c _ => ?_
  simpa [FrameBuffer.pixel, hr] using h r c

end Sys2Proof.Machine
end

