-- ==== Sys2Proof/Laws/Flags.lean ====
section
/-! SUPPORT. The arithmetic of bytes as numbers: sums, differences, shifts, flags, digits, targets and timers. -/

namespace Sys2Proof.Machine

/-- The sum is the true sum modulo 256 (R150). -/
@[simp] theorem toNat_sumByte (a b : Byte) : (sumByte a b).toNat = (a.toNat + b.toNat) % 256 := by
  simp [sumByte]

/-- The difference is the true difference modulo 256, never negative (R11, R150). -/
theorem toNat_diffByte (a b : Byte) : ((diffByte a b).toNat : Int) = (a.toNat - b.toNat : Int) % 256 := by
  simp only [diffByte, BitVec.toNat_ofInt]
  omega

/-- A right shift halves, and moves the remainder out (R159). -/
theorem shift_right_toNat : ∀ b : Byte,
    (shiftedRight b).toNat = b.toNat / 2 ∧ (flagByte (bitOutRight b)).toNat = b.toNat % 2 := by decide

/-- A left shift doubles modulo 256, and moves bit 7 out (R161). -/
theorem shift_left_toNat : ∀ b : Byte,
    (shiftedLeft b).toNat = b.toNat * 2 % 256 ∧ (flagByte (bitOutLeft b)).toNat = b.toNat / 128 := by decide

/-- A zero-extended address has the value of its 12 bits (R83). -/
@[simp] theorem toNat_zextAddr (nnn : BitVec 12) : (zextAddr nnn).toNat = nnn.toNat := by
  have := nnn.isLt
  simp [zextAddr]
  omega

/-- The target of JP V0 is the unreduced sum (R137). -/
@[simp] theorem toNat_offsetTarget (nnn : BitVec 12) (s : State) :
    (offsetTarget nnn s).toNat = nnn.toNat + (s.getV 0).toNat := by
  have := nnn.isLt
  have := (s.getV 0).isLt
  simp [offsetTarget]
  omega

/-- The glyph address is five times the digit (R182). -/
@[simp] theorem toNat_glyphAddr (d : Byte) : (glyphAddr d).toNat = 5 * d.toNat := by
  have := d.isLt
  simp [glyphAddr]
  omega

/-- The key a skip names is the low nibble's value (R210). -/
@[simp] theorem val_keyOperand (x : Reg) (s : State) : (keyOperand x s).val = (s.getV x).toNat % 16 := by
  simp [keyOperand]

/-- One TICK of a timer is subtraction clamped at 0 (R236). -/
@[simp] theorem toNat_countDown : ∀ t : Byte, (countDown t).toNat = t.toNat - 1 := by decide

end Sys2Proof.Machine
end

