-- ==== Sys2Proof/Laws/Memory.lean ====
section
/-! SUPPORT. Memory: reading after writing, and that every memory operation keeps the canonical form. -/

namespace Sys2Proof.Machine

namespace Memory

theorem wfFrom_cons {low a : Nat} {x : Byte} {rest : Memory} :
    wfFrom low ((a, x) :: rest) = true ↔
      low ≤ a ∧ a < 4096 ∧ x ≠ unlisted a ∧ wfFrom (a + 1) rest = true := by
  simp [wfFrom, memSize, and_assoc]

theorem wfFrom_mono {low low' : Nat} (h : low' ≤ low) : ∀ {m : Memory}, wfFrom low m = true → wfFrom low' m = true
  | [], _ => rfl
  | (_, _) :: _, hm => by
    obtain ⟨h₁, h₂⟩ := wfFrom_cons.1 hm
    exact wfFrom_cons.2 ⟨h.trans h₁, h₂⟩

/-- An address below every listed one reads as unlisted. -/
theorem read_below {low a : Nat} (ha : a < low) : ∀ {m : Memory}, wfFrom low m = true → read m a = unlisted a
  | [], _ => rfl
  | (b, y) :: rest, hm => by
    obtain ⟨hb, -, -, hr⟩ := wfFrom_cons.1 hm
    rw [read, if_neg (by omega)]
    exact read_below (by omega) hr

@[simp] theorem read_nil (a : Nat) : read [] a = unlisted a := rfl

theorem read_listed_same (a : Nat) (x : Byte) {rest : Memory} (h : read rest a = unlisted a) :
    read (listed a x rest) a = x := by
  unfold listed
  split
  · rename_i hx; rw [h, hx]
  · simp [read]

theorem read_listed_other {a c : Nat} (x : Byte) (rest : Memory) (h : c ≠ a) :
    read (listed a x rest) c = read rest c := by
  unfold listed
  split
  · rfl
  · simp [read, h]

theorem wfFrom_listed {low a : Nat} (x : Byte) {rest : Memory} (hl : low ≤ a) (ha : a < 4096)
    (h : wfFrom (a + 1) rest = true) : wfFrom low (listed a x rest) = true := by
  unfold listed
  split
  · exact wfFrom_mono (by omega) h
  · rename_i hx; exact wfFrom_cons.2 ⟨hl, ha, hx, h⟩

/-- A write leaves every other address alone. -/
theorem read_write_other {a c : Nat} (x : Byte) (h : c ≠ a) : ∀ m : Memory, read (write m a x) c = read m c
  | [] => read_listed_other x [] h
  | (b, y) :: rest => by
    unfold write
    split
    · exact read_listed_other x _ h
    · split
      · rename_i hab
        rw [read_listed_other x _ h, read, if_neg (by omega)]
      · simp only [read, read_write_other x h rest]

theorem read_write_same_from {low a : Nat} (x : Byte) : ∀ {m : Memory}, wfFrom low m = true → read (write m a x) a = x
  | [], _ => read_listed_same a x rfl
  | (b, y) :: rest, hm => by
    obtain ⟨-, -, -, hr⟩ := wfFrom_cons.1 hm
    unfold write
    split
    · rename_i hab
      refine read_listed_same a x ?_
      rw [read, if_neg (by omega), read_below (by omega) hr]
    · split
      · rename_i hab
        exact read_listed_same a x (read_below (by omega) hr)
      · rename_i hab
        rw [read, if_neg hab]
        exact read_write_same_from x hr

/-- A read after a write to the same address gives the byte written. -/
theorem read_write_same {m : Memory} (hm : m.wf = true) (a : Nat) (x : Byte) : read (write m a x) a = x :=
  read_write_same_from x hm

theorem wfFrom_write {a : Nat} (x : Byte) (ha : a < 4096) :
    ∀ {low : Nat} {m : Memory}, low ≤ a → wfFrom low m = true → wfFrom low (write m a x) = true
  | _, [], hl, _ => wfFrom_listed x hl ha rfl
  | low, (b, y) :: rest, hl, hm => by
    obtain ⟨hb, hbm, hy, hr⟩ := wfFrom_cons.1 hm
    unfold write
    split
    · exact wfFrom_listed x hl ha (wfFrom_cons.2 ⟨by omega, hbm, hy, hr⟩)
    · split
      · rename_i hab
        exact wfFrom_listed x hl ha (hab ▸ hr)
      · exact wfFrom_cons.2 ⟨hb, hbm, hy, wfFrom_write x ha (by omega) hr⟩

/-- Writing one byte inside memory keeps the canonical form. -/
theorem wf_write {m : Memory} (hm : m.wf = true) {a : Nat} (x : Byte) (ha : a < 4096) : (write m a x).wf = true :=
  wfFrom_write x ha (Nat.zero_le a) hm

/-- Writing bytes inside memory keeps the canonical form. -/
theorem wf_writeBytes : ∀ {m : Memory} {base : Nat} (xs : List Byte), m.wf = true → base + xs.length ≤ 4096 →
    (writeBytes m base xs).wf = true
  | _, _, [], hm, _ => hm
  | _, base, x :: xs, hm, h => by
    simp only [List.length_cons] at h
    exact wf_writeBytes xs (wf_write hm x (by omega)) (by omega)

/-- Memory with nothing listed, the memory of `State.reset`, is canonical. -/
@[simp] theorem wf_nil : wf [] = true := rfl

/-- A run of writes leaves every address outside it alone. -/
theorem read_writeBytes_outside : ∀ (m : Memory) (base : Nat) (xs : List Byte) {c : Nat},
    (c < base ∨ base + xs.length ≤ c) → read (writeBytes m base xs) c = read m c
  | _, _, [], _, _ => rfl
  | m, base, x :: xs, c, h => by
    simp only [List.length_cons] at h
    rw [writeBytes, read_writeBytes_outside _ _ xs (by omega), read_write_other x (by omega)]

/-- A read inside a run of writes gives the byte written there. -/
theorem read_writeBytes_inside : ∀ {m : Memory} (base : Nat) (xs : List Byte) (k : Nat) (hk : k < xs.length),
    m.wf = true → base + xs.length ≤ 4096 → read (writeBytes m base xs) (base + k) = xs[k]
  | m, base, x :: xs, 0, _, hm, h => by
    rw [writeBytes, read_writeBytes_outside _ _ xs (by omega)]
    exact read_write_same hm base x
  | m, base, x :: xs, k + 1, hk, hm, h => by
    simp only [List.length_cons] at h hk
    have hw := wf_write hm (a := base) x (by omega)
    have ih := read_writeBytes_inside (base + 1) xs k (by omega) hw (by omega)
    rw [writeBytes, List.getElem_cons_succ, ← ih]
    congr 1; omega

@[simp] theorem length_readBytes (m : Memory) : ∀ base count : Nat, (readBytes m base count).length = count
  | _, 0 => rfl
  | base, count + 1 => by simp [readBytes, length_readBytes m (base + 1) count]

/-- Byte `k` of a run read is the byte at `base + k`. -/
theorem getElem_readBytes (m : Memory) : ∀ (base count k : Nat) (hk : k < (readBytes m base count).length),
    (readBytes m base count)[k] = read m (base + k)
  | _, 0, _, hk => absurd hk (by simp [readBytes])
  | base, count + 1, 0, _ => rfl
  | base, count + 1, k + 1, hk => by
    have hk' : k < (readBytes m (base + 1) count).length := by simpa using hk
    simp only [readBytes, List.getElem_cons_succ, getElem_readBytes m (base + 1) count k hk']
    congr 1; omega

/-- Runs read from memories that agree on the bytes of the run are equal. -/
theorem readBytes_congr {m n : Memory} : ∀ (base count : Nat),
    (∀ k, k < count → read m (base + k) = read n (base + k)) → readBytes m base count = readBytes n base count
  | _, 0, _ => rfl
  | base, count + 1, h => by
    have h0 : read m base = read n base := h 0 (by omega)
    have hs := readBytes_congr (m := m) (n := n) (base + 1) count fun k hk => by
      have := h (k + 1) (by omega)
      rwa [show base + (k + 1) = base + 1 + k by omega] at this
    rw [readBytes, readBytes, h0, hs]

end Memory

end Sys2Proof.Machine
end

