-- ==== Sys2Proof/Laws/State.lean ====
section
/-! SUPPORT. The fields of a state after each named update, one lemma per field per update, and what the accessors read
after it, so that no later proof unfolds a record update. -/

namespace Sys2Proof.Machine

/-! ### setV -/

@[simp] theorem State.setV_mem (s : State) (x : Reg) (b : Byte) : (s.setV x b).mem = s.mem := rfl
@[simp] theorem State.setV_v (s : State) (x : Reg) (b : Byte) : (s.setV x b).v = s.v.set x.val b := rfl
@[simp] theorem State.setV_i (s : State) (x : Reg) (b : Byte) : (s.setV x b).i = s.i := rfl
@[simp] theorem State.setV_pc (s : State) (x : Reg) (b : Byte) : (s.setV x b).pc = s.pc := rfl
@[simp] theorem State.setV_stack (s : State) (x : Reg) (b : Byte) : (s.setV x b).stack = s.stack := rfl
@[simp] theorem State.setV_sp (s : State) (x : Reg) (b : Byte) : (s.setV x b).sp = s.sp := rfl
@[simp] theorem State.setV_dt (s : State) (x : Reg) (b : Byte) : (s.setV x b).dt = s.dt := rfl
@[simp] theorem State.setV_st (s : State) (x : Reg) (b : Byte) : (s.setV x b).st = s.st := rfl
@[simp] theorem State.setV_fb (s : State) (x : Reg) (b : Byte) : (s.setV x b).fb = s.fb := rfl
@[simp] theorem State.setV_key (s : State) (x : Reg) (b : Byte) : (s.setV x b).key = s.key := rfl
@[simp] theorem State.setV_draws (s : State) (x : Reg) (b : Byte) : (s.setV x b).draws = s.draws := rfl
@[simp] theorem State.setV_config (s : State) (x : Reg) (b : Byte) : (s.setV x b).config = s.config := rfl
@[simp] theorem State.setV_readByte (s : State) (x : Reg) (b : Byte) (c : Nat) : (s.setV x b).readByte c = s.readByte c := rfl
@[simp] theorem State.setV_getKey (s : State) (x : Reg) (b : Byte) (j : Reg) : (s.setV x b).getKey j = s.getKey j := rfl

/-! ### setPc -/

@[simp] theorem State.setPc_mem (s : State) (a : Word) : (s.setPc a).mem = s.mem := rfl
@[simp] theorem State.setPc_v (s : State) (a : Word) : (s.setPc a).v = s.v := rfl
@[simp] theorem State.setPc_i (s : State) (a : Word) : (s.setPc a).i = s.i := rfl
@[simp] theorem State.setPc_pc (s : State) (a : Word) : (s.setPc a).pc = a := rfl
@[simp] theorem State.setPc_stack (s : State) (a : Word) : (s.setPc a).stack = s.stack := rfl
@[simp] theorem State.setPc_sp (s : State) (a : Word) : (s.setPc a).sp = s.sp := rfl
@[simp] theorem State.setPc_dt (s : State) (a : Word) : (s.setPc a).dt = s.dt := rfl
@[simp] theorem State.setPc_st (s : State) (a : Word) : (s.setPc a).st = s.st := rfl
@[simp] theorem State.setPc_fb (s : State) (a : Word) : (s.setPc a).fb = s.fb := rfl
@[simp] theorem State.setPc_key (s : State) (a : Word) : (s.setPc a).key = s.key := rfl
@[simp] theorem State.setPc_draws (s : State) (a : Word) : (s.setPc a).draws = s.draws := rfl
@[simp] theorem State.setPc_config (s : State) (a : Word) : (s.setPc a).config = s.config := rfl
@[simp] theorem State.setPc_getV (s : State) (a : Word) (r : Reg) : (s.setPc a).getV r = s.getV r := rfl
@[simp] theorem State.setPc_readByte (s : State) (a : Word) (c : Nat) : (s.setPc a).readByte c = s.readByte c := rfl
@[simp] theorem State.setPc_getKey (s : State) (a : Word) (j : Reg) : (s.setPc a).getKey j = s.getKey j := rfl

/-! ### setI -/

@[simp] theorem State.setI_mem (s : State) (a : Word) : (s.setI a).mem = s.mem := rfl
@[simp] theorem State.setI_v (s : State) (a : Word) : (s.setI a).v = s.v := rfl
@[simp] theorem State.setI_i (s : State) (a : Word) : (s.setI a).i = a := rfl
@[simp] theorem State.setI_pc (s : State) (a : Word) : (s.setI a).pc = s.pc := rfl
@[simp] theorem State.setI_stack (s : State) (a : Word) : (s.setI a).stack = s.stack := rfl
@[simp] theorem State.setI_sp (s : State) (a : Word) : (s.setI a).sp = s.sp := rfl
@[simp] theorem State.setI_dt (s : State) (a : Word) : (s.setI a).dt = s.dt := rfl
@[simp] theorem State.setI_st (s : State) (a : Word) : (s.setI a).st = s.st := rfl
@[simp] theorem State.setI_fb (s : State) (a : Word) : (s.setI a).fb = s.fb := rfl
@[simp] theorem State.setI_key (s : State) (a : Word) : (s.setI a).key = s.key := rfl
@[simp] theorem State.setI_draws (s : State) (a : Word) : (s.setI a).draws = s.draws := rfl
@[simp] theorem State.setI_config (s : State) (a : Word) : (s.setI a).config = s.config := rfl
@[simp] theorem State.setI_getV (s : State) (a : Word) (r : Reg) : (s.setI a).getV r = s.getV r := rfl
@[simp] theorem State.setI_readByte (s : State) (a : Word) (c : Nat) : (s.setI a).readByte c = s.readByte c := rfl
@[simp] theorem State.setI_getKey (s : State) (a : Word) (j : Reg) : (s.setI a).getKey j = s.getKey j := rfl

/-! ### setDt -/

@[simp] theorem State.setDt_mem (s : State) (b : Byte) : (s.setDt b).mem = s.mem := rfl
@[simp] theorem State.setDt_v (s : State) (b : Byte) : (s.setDt b).v = s.v := rfl
@[simp] theorem State.setDt_i (s : State) (b : Byte) : (s.setDt b).i = s.i := rfl
@[simp] theorem State.setDt_pc (s : State) (b : Byte) : (s.setDt b).pc = s.pc := rfl
@[simp] theorem State.setDt_stack (s : State) (b : Byte) : (s.setDt b).stack = s.stack := rfl
@[simp] theorem State.setDt_sp (s : State) (b : Byte) : (s.setDt b).sp = s.sp := rfl
@[simp] theorem State.setDt_dt (s : State) (b : Byte) : (s.setDt b).dt = b := rfl
@[simp] theorem State.setDt_st (s : State) (b : Byte) : (s.setDt b).st = s.st := rfl
@[simp] theorem State.setDt_fb (s : State) (b : Byte) : (s.setDt b).fb = s.fb := rfl
@[simp] theorem State.setDt_key (s : State) (b : Byte) : (s.setDt b).key = s.key := rfl
@[simp] theorem State.setDt_draws (s : State) (b : Byte) : (s.setDt b).draws = s.draws := rfl
@[simp] theorem State.setDt_config (s : State) (b : Byte) : (s.setDt b).config = s.config := rfl
@[simp] theorem State.setDt_getV (s : State) (b : Byte) (r : Reg) : (s.setDt b).getV r = s.getV r := rfl
@[simp] theorem State.setDt_readByte (s : State) (b : Byte) (c : Nat) : (s.setDt b).readByte c = s.readByte c := rfl
@[simp] theorem State.setDt_getKey (s : State) (b : Byte) (j : Reg) : (s.setDt b).getKey j = s.getKey j := rfl

/-! ### setSt -/

@[simp] theorem State.setSt_mem (s : State) (b : Byte) : (s.setSt b).mem = s.mem := rfl
@[simp] theorem State.setSt_v (s : State) (b : Byte) : (s.setSt b).v = s.v := rfl
@[simp] theorem State.setSt_i (s : State) (b : Byte) : (s.setSt b).i = s.i := rfl
@[simp] theorem State.setSt_pc (s : State) (b : Byte) : (s.setSt b).pc = s.pc := rfl
@[simp] theorem State.setSt_stack (s : State) (b : Byte) : (s.setSt b).stack = s.stack := rfl
@[simp] theorem State.setSt_sp (s : State) (b : Byte) : (s.setSt b).sp = s.sp := rfl
@[simp] theorem State.setSt_dt (s : State) (b : Byte) : (s.setSt b).dt = s.dt := rfl
@[simp] theorem State.setSt_st (s : State) (b : Byte) : (s.setSt b).st = b := rfl
@[simp] theorem State.setSt_fb (s : State) (b : Byte) : (s.setSt b).fb = s.fb := rfl
@[simp] theorem State.setSt_key (s : State) (b : Byte) : (s.setSt b).key = s.key := rfl
@[simp] theorem State.setSt_draws (s : State) (b : Byte) : (s.setSt b).draws = s.draws := rfl
@[simp] theorem State.setSt_config (s : State) (b : Byte) : (s.setSt b).config = s.config := rfl
@[simp] theorem State.setSt_getV (s : State) (b : Byte) (r : Reg) : (s.setSt b).getV r = s.getV r := rfl
@[simp] theorem State.setSt_readByte (s : State) (b : Byte) (c : Nat) : (s.setSt b).readByte c = s.readByte c := rfl
@[simp] theorem State.setSt_getKey (s : State) (b : Byte) (j : Reg) : (s.setSt b).getKey j = s.getKey j := rfl

/-! ### setFb -/

@[simp] theorem State.setFb_mem (s : State) (f : FrameBuffer) : (s.setFb f).mem = s.mem := rfl
@[simp] theorem State.setFb_v (s : State) (f : FrameBuffer) : (s.setFb f).v = s.v := rfl
@[simp] theorem State.setFb_i (s : State) (f : FrameBuffer) : (s.setFb f).i = s.i := rfl
@[simp] theorem State.setFb_pc (s : State) (f : FrameBuffer) : (s.setFb f).pc = s.pc := rfl
@[simp] theorem State.setFb_stack (s : State) (f : FrameBuffer) : (s.setFb f).stack = s.stack := rfl
@[simp] theorem State.setFb_sp (s : State) (f : FrameBuffer) : (s.setFb f).sp = s.sp := rfl
@[simp] theorem State.setFb_dt (s : State) (f : FrameBuffer) : (s.setFb f).dt = s.dt := rfl
@[simp] theorem State.setFb_st (s : State) (f : FrameBuffer) : (s.setFb f).st = s.st := rfl
@[simp] theorem State.setFb_fb (s : State) (f : FrameBuffer) : (s.setFb f).fb = f := rfl
@[simp] theorem State.setFb_key (s : State) (f : FrameBuffer) : (s.setFb f).key = s.key := rfl
@[simp] theorem State.setFb_draws (s : State) (f : FrameBuffer) : (s.setFb f).draws = s.draws := rfl
@[simp] theorem State.setFb_config (s : State) (f : FrameBuffer) : (s.setFb f).config = s.config := rfl
@[simp] theorem State.setFb_getV (s : State) (f : FrameBuffer) (r : Reg) : (s.setFb f).getV r = s.getV r := rfl
@[simp] theorem State.setFb_readByte (s : State) (f : FrameBuffer) (c : Nat) : (s.setFb f).readByte c = s.readByte c := rfl
@[simp] theorem State.setFb_getKey (s : State) (f : FrameBuffer) (j : Reg) : (s.setFb f).getKey j = s.getKey j := rfl

/-! ### setMem -/

@[simp] theorem State.setMem_mem (s : State) (m : Memory) : (s.setMem m).mem = m := rfl
@[simp] theorem State.setMem_v (s : State) (m : Memory) : (s.setMem m).v = s.v := rfl
@[simp] theorem State.setMem_i (s : State) (m : Memory) : (s.setMem m).i = s.i := rfl
@[simp] theorem State.setMem_pc (s : State) (m : Memory) : (s.setMem m).pc = s.pc := rfl
@[simp] theorem State.setMem_stack (s : State) (m : Memory) : (s.setMem m).stack = s.stack := rfl
@[simp] theorem State.setMem_sp (s : State) (m : Memory) : (s.setMem m).sp = s.sp := rfl
@[simp] theorem State.setMem_dt (s : State) (m : Memory) : (s.setMem m).dt = s.dt := rfl
@[simp] theorem State.setMem_st (s : State) (m : Memory) : (s.setMem m).st = s.st := rfl
@[simp] theorem State.setMem_fb (s : State) (m : Memory) : (s.setMem m).fb = s.fb := rfl
@[simp] theorem State.setMem_key (s : State) (m : Memory) : (s.setMem m).key = s.key := rfl
@[simp] theorem State.setMem_draws (s : State) (m : Memory) : (s.setMem m).draws = s.draws := rfl
@[simp] theorem State.setMem_config (s : State) (m : Memory) : (s.setMem m).config = s.config := rfl
@[simp] theorem State.setMem_getV (s : State) (m : Memory) (r : Reg) : (s.setMem m).getV r = s.getV r := rfl
@[simp] theorem State.setMem_getKey (s : State) (m : Memory) (j : Reg) : (s.setMem m).getKey j = s.getKey j := rfl

/-! ### setKey -/

@[simp] theorem State.setKey_mem (s : State) (k : Reg) (p : Bool) : (s.setKey k p).mem = s.mem := rfl
@[simp] theorem State.setKey_v (s : State) (k : Reg) (p : Bool) : (s.setKey k p).v = s.v := rfl
@[simp] theorem State.setKey_i (s : State) (k : Reg) (p : Bool) : (s.setKey k p).i = s.i := rfl
@[simp] theorem State.setKey_pc (s : State) (k : Reg) (p : Bool) : (s.setKey k p).pc = s.pc := rfl
@[simp] theorem State.setKey_stack (s : State) (k : Reg) (p : Bool) : (s.setKey k p).stack = s.stack := rfl
@[simp] theorem State.setKey_sp (s : State) (k : Reg) (p : Bool) : (s.setKey k p).sp = s.sp := rfl
@[simp] theorem State.setKey_dt (s : State) (k : Reg) (p : Bool) : (s.setKey k p).dt = s.dt := rfl
@[simp] theorem State.setKey_st (s : State) (k : Reg) (p : Bool) : (s.setKey k p).st = s.st := rfl
@[simp] theorem State.setKey_fb (s : State) (k : Reg) (p : Bool) : (s.setKey k p).fb = s.fb := rfl
@[simp] theorem State.setKey_key (s : State) (k : Reg) (p : Bool) : (s.setKey k p).key = s.key.set k.val p := rfl
@[simp] theorem State.setKey_draws (s : State) (k : Reg) (p : Bool) : (s.setKey k p).draws = s.draws := rfl
@[simp] theorem State.setKey_config (s : State) (k : Reg) (p : Bool) : (s.setKey k p).config = s.config := rfl
@[simp] theorem State.setKey_getV (s : State) (k : Reg) (p : Bool) (r : Reg) : (s.setKey k p).getV r = s.getV r := rfl
@[simp] theorem State.setKey_readByte (s : State) (k : Reg) (p : Bool) (c : Nat) : (s.setKey k p).readByte c = s.readByte c := rfl

/-! ### countDraw -/

@[simp] theorem State.countDraw_mem (s : State) : s.countDraw.mem = s.mem := rfl
@[simp] theorem State.countDraw_v (s : State) : s.countDraw.v = s.v := rfl
@[simp] theorem State.countDraw_i (s : State) : s.countDraw.i = s.i := rfl
@[simp] theorem State.countDraw_pc (s : State) : s.countDraw.pc = s.pc := rfl
@[simp] theorem State.countDraw_stack (s : State) : s.countDraw.stack = s.stack := rfl
@[simp] theorem State.countDraw_sp (s : State) : s.countDraw.sp = s.sp := rfl
@[simp] theorem State.countDraw_dt (s : State) : s.countDraw.dt = s.dt := rfl
@[simp] theorem State.countDraw_st (s : State) : s.countDraw.st = s.st := rfl
@[simp] theorem State.countDraw_fb (s : State) : s.countDraw.fb = s.fb := rfl
@[simp] theorem State.countDraw_key (s : State) : s.countDraw.key = s.key := rfl
@[simp] theorem State.countDraw_draws (s : State) : s.countDraw.draws = s.draws + 1 := rfl
@[simp] theorem State.countDraw_config (s : State) : s.countDraw.config = s.config := rfl
@[simp] theorem State.countDraw_getV (s : State) (r : Reg) : s.countDraw.getV r = s.getV r := rfl
@[simp] theorem State.countDraw_readByte (s : State) (c : Nat) : s.countDraw.readByte c = s.readByte c := rfl
@[simp] theorem State.countDraw_getKey (s : State) (j : Reg) : s.countDraw.getKey j = s.getKey j := rfl

/-! ### advance -/

@[simp] theorem State.advance_mem (s : State) : s.advance.mem = s.mem := rfl
@[simp] theorem State.advance_v (s : State) : s.advance.v = s.v := rfl
@[simp] theorem State.advance_i (s : State) : s.advance.i = s.i := rfl
@[simp] theorem State.advance_pc (s : State) : s.advance.pc = s.pc + 2#16 := rfl
@[simp] theorem State.advance_stack (s : State) : s.advance.stack = s.stack := rfl
@[simp] theorem State.advance_sp (s : State) : s.advance.sp = s.sp := rfl
@[simp] theorem State.advance_dt (s : State) : s.advance.dt = s.dt := rfl
@[simp] theorem State.advance_st (s : State) : s.advance.st = s.st := rfl
@[simp] theorem State.advance_fb (s : State) : s.advance.fb = s.fb := rfl
@[simp] theorem State.advance_key (s : State) : s.advance.key = s.key := rfl
@[simp] theorem State.advance_draws (s : State) : s.advance.draws = s.draws := rfl
@[simp] theorem State.advance_config (s : State) : s.advance.config = s.config := rfl
@[simp] theorem State.advance_getV (s : State) (r : Reg) : s.advance.getV r = s.getV r := rfl
@[simp] theorem State.advance_readByte (s : State) (c : Nat) : s.advance.readByte c = s.readByte c := rfl
@[simp] theorem State.advance_getKey (s : State) (j : Reg) : s.advance.getKey j = s.getKey j := rfl

/-! ### Reading what was written -/

theorem State.setV_getV (s : State) (x : Reg) (b : Byte) (r : Reg) :
    (s.setV x b).getV r = if r = x then b else s.getV r := by
  simp only [State.getV, State.setV, Vector.getElem_set, Fin.ext_iff, eq_comm]

@[simp] theorem State.setV_getV_same (s : State) (x : Reg) (b : Byte) : (s.setV x b).getV x = b := by
  simp [State.setV_getV]

theorem State.setV_getV_other (s : State) {x r : Reg} (b : Byte) (h : r ≠ x) : (s.setV x b).getV r = s.getV r := by
  simp [State.setV_getV, h]

theorem State.setKey_getKey (s : State) (k : Reg) (p : Bool) (j : Reg) :
    (s.setKey k p).getKey j = if j = k then p else s.getKey j := by
  simp only [State.getKey, State.setKey, Vector.getElem_set, Fin.ext_iff, eq_comm]

@[simp] theorem State.setMem_readByte (s : State) (m : Memory) (c : Nat) : (s.setMem m).readByte c = m.read c := rfl

/-- The flag is written first and the result second (R115): register `x` holds the result, also when it is `VF`. -/
theorem State.setFlagThenResult_getV (s : State) (x : Reg) (flag result : Byte) (r : Reg) :
    (s.setFlagThenResult x flag result).getV r = if r = x then result else if r = VF then flag else s.getV r := by
  simp only [State.setFlagThenResult, State.setV_getV]

/-- The equality of two register files is the equality of their sixteen registers. -/
theorem State.v_ext {s t : State} (h : ∀ r : Reg, t.getV r = s.getV r) : t.v = s.v :=
  Vector.ext fun k hk => h ⟨k, hk⟩

/-! ### setFlagThenResult -/

@[simp] theorem State.setFlagThenResult_mem (s : State) (x : Reg) (flag result : Byte) :
    (s.setFlagThenResult x flag result).mem = s.mem := rfl
@[simp] theorem State.setFlagThenResult_i (s : State) (x : Reg) (flag result : Byte) :
    (s.setFlagThenResult x flag result).i = s.i := rfl
@[simp] theorem State.setFlagThenResult_pc (s : State) (x : Reg) (flag result : Byte) :
    (s.setFlagThenResult x flag result).pc = s.pc := rfl
@[simp] theorem State.setFlagThenResult_stack (s : State) (x : Reg) (flag result : Byte) :
    (s.setFlagThenResult x flag result).stack = s.stack := rfl
@[simp] theorem State.setFlagThenResult_sp (s : State) (x : Reg) (flag result : Byte) :
    (s.setFlagThenResult x flag result).sp = s.sp := rfl
@[simp] theorem State.setFlagThenResult_dt (s : State) (x : Reg) (flag result : Byte) :
    (s.setFlagThenResult x flag result).dt = s.dt := rfl
@[simp] theorem State.setFlagThenResult_st (s : State) (x : Reg) (flag result : Byte) :
    (s.setFlagThenResult x flag result).st = s.st := rfl
@[simp] theorem State.setFlagThenResult_fb (s : State) (x : Reg) (flag result : Byte) :
    (s.setFlagThenResult x flag result).fb = s.fb := rfl
@[simp] theorem State.setFlagThenResult_key (s : State) (x : Reg) (flag result : Byte) :
    (s.setFlagThenResult x flag result).key = s.key := rfl
@[simp] theorem State.setFlagThenResult_draws (s : State) (x : Reg) (flag result : Byte) :
    (s.setFlagThenResult x flag result).draws = s.draws := rfl
@[simp] theorem State.setFlagThenResult_config (s : State) (x : Reg) (flag result : Byte) :
    (s.setFlagThenResult x flag result).config = s.config := rfl
@[simp] theorem State.setFlagThenResult_readByte (s : State) (x : Reg) (flag result : Byte) (c : Nat) :
    (s.setFlagThenResult x flag result).readByte c = s.readByte c := rfl

/-! ### skipIf: nothing but `PC` changes -/

@[simp] theorem State.skipIf_mem (c : Bool) (s : State) : (s.skipIf c).mem = s.mem := by cases c <;> rfl
@[simp] theorem State.skipIf_v (c : Bool) (s : State) : (s.skipIf c).v = s.v := by cases c <;> rfl
@[simp] theorem State.skipIf_i (c : Bool) (s : State) : (s.skipIf c).i = s.i := by cases c <;> rfl
@[simp] theorem State.skipIf_stack (c : Bool) (s : State) : (s.skipIf c).stack = s.stack := by cases c <;> rfl
@[simp] theorem State.skipIf_sp (c : Bool) (s : State) : (s.skipIf c).sp = s.sp := by cases c <;> rfl
@[simp] theorem State.skipIf_dt (c : Bool) (s : State) : (s.skipIf c).dt = s.dt := by cases c <;> rfl
@[simp] theorem State.skipIf_st (c : Bool) (s : State) : (s.skipIf c).st = s.st := by cases c <;> rfl
@[simp] theorem State.skipIf_fb (c : Bool) (s : State) : (s.skipIf c).fb = s.fb := by cases c <;> rfl
@[simp] theorem State.skipIf_key (c : Bool) (s : State) : (s.skipIf c).key = s.key := by cases c <;> rfl
@[simp] theorem State.skipIf_draws (c : Bool) (s : State) : (s.skipIf c).draws = s.draws := by cases c <;> rfl
@[simp] theorem State.skipIf_config (c : Bool) (s : State) : (s.skipIf c).config = s.config := by cases c <;> rfl
@[simp] theorem State.skipIf_getV (c : Bool) (s : State) (r : Reg) : (s.skipIf c).getV r = s.getV r := by cases c <;> rfl
@[simp] theorem State.skipIf_readByte (c : Bool) (s : State) (a : Nat) : (s.skipIf c).readByte a = s.readByte a := by cases c <;> rfl
theorem State.skipIf_pc (c : Bool) (s : State) : (s.skipIf c).pc = if c then s.pc + 2#16 else s.pc := by cases c <;> rfl

end Sys2Proof.Machine
end

