-- ==== Sys2Proof/Laws/Ops.lean ====
section
/-! SUPPORT. Each shared operation said once: everything it can answer. -/

namespace Sys2Proof.Machine

/-! ### The range check (R56) -/

/-- In range, the check is transparent. -/
theorem withinMemory_inside {s : State} {base count : Nat} {k : Outcome} (h : count = 0 ∨ base + count ≤ 4096) :
    withinMemory s base count k = k := by
  unfold withinMemory
  rw [if_neg]
  omega

/-- Out of range, the instruction raises `ErrAddressRange`, with the first address above 0xFFF and the highest. -/
theorem withinMemory_outside {s : State} {base count : Nat} {k : Outcome} (h₀ : 0 < count) (h : 4096 < base + count) :
    withinMemory s base count k = .fault (.errAddressRange s.fetchAddr (max base 0x1000) (base + count - 1)) := by
  unfold withinMemory raise rangeError
  rw [if_pos ⟨h₀, by omega⟩]

/-- If the check answers a next state, the access was in range and the instruction answered it. -/
theorem withinMemory_next {s t : State} {base count : Nat} {k : Outcome} (h : withinMemory s base count k = .next t) :
    k = .next t ∧ (count = 0 ∨ base + count ≤ 4096) := by
  unfold withinMemory raise at h
  split at h
  · cases h
  · refine ⟨h, ?_⟩
    omega

/-- The check reports an error exactly when a touched byte lies above 0xFFF, if what it guards reports none. -/
theorem withinMemory_fault_iff {s t : State} {base count : Nat} {e : Fault} :
    withinMemory s base count (.next t) = .fault e ↔
      0 < count ∧ 4096 < base + count ∧ e = .errAddressRange s.fetchAddr (max base 0x1000) (base + count - 1) := by
  by_cases h : 0 < count ∧ 4096 < base + count
  · rw [withinMemory_outside h.1 h.2]
    exact ⟨fun he => ⟨h.1, h.2, by injection he with he; exact he.symm⟩, fun he => by rw [he.2.2]⟩
  · rw [withinMemory_inside (by omega)]
    exact ⟨fun he => (by injection he), fun he => absurd ⟨he.1, he.2.1⟩ h⟩

/-- The check never refuses. -/
theorem withinMemory_not_refused {s t : State} {base count : Nat} {r : Refusal} :
    withinMemory s base count (.next t) ≠ .refused r := by
  by_cases h : 0 < count ∧ 4096 < base + count
  · rw [withinMemory_outside h.1 h.2]; intro he; injection he
  · rw [withinMemory_inside (by omega)]; intro he; injection he

/-- The error of a failed fetch, field by field: the first of `PC` and `PC + 1` above 0xFFF, and `PC + 1`. -/
theorem fetchError_eq (s : State) :
    fetchError s = .errAddressRange s.pc (max s.pc.toNat 0x1000) (s.pc.toNat + 1) := rfl

/-! ### The call stack (R28) -/

theorem State.push_eq {s : State} (a : Word) (h : s.sp.val < 16) :
    s.push a = some { s with stack := s.stack.set s.sp.val a, sp := ⟨s.sp.val + 1, by omega⟩ } := by
  simp [State.push, h]

theorem State.push_full {s : State} (a : Word) (h : s.sp.val = 16) : s.push a = none := by
  simp [State.push, h]

theorem State.push_some {s t : State} {a : Word} (h : s.push a = some t) :
    ∃ h' : s.sp.val < 16, t = { s with stack := s.stack.set s.sp.val a, sp := ⟨s.sp.val + 1, by omega⟩ } := by
  unfold State.push at h
  split at h
  · exact ⟨‹_›, (Option.some.inj h).symm⟩
  · cases h

theorem State.pop_eq {s : State} (h : 0 < s.sp.val) :
    s.pop = some (s.stack[s.sp.val - 1]'(by omega), { s with sp := ⟨s.sp.val - 1, by omega⟩ }) := by
  simp [State.pop, h]

theorem State.pop_empty {s : State} (h : s.sp.val = 0) : s.pop = none := by
  simp [State.pop, h]

theorem State.pop_some {s t : State} {a : Word} (h : s.pop = some (a, t)) :
    ∃ h' : 0 < s.sp.val, a = s.stack[s.sp.val - 1]'(by omega) ∧ t = { s with sp := ⟨s.sp.val - 1, by omega⟩ } := by
  unfold State.pop at h
  split at h
  · cases h; exact ⟨‹_›, rfl, rfl⟩
  · cases h

/-! ### The fetch (R111) -/

theorem fetchWord_inside {s : State} (h : s.pc.toNat ≤ 0xFFE) :
    fetchWord s = some (wordOfBytes (s.readByte s.pc.toNat) (s.readByte (s.pc.toNat + 1))) := by
  unfold fetchWord
  rw [if_neg (by omega)]

theorem fetchWord_outside {s : State} (h : 0xFFE < s.pc.toNat) : fetchWord s = none := by
  unfold fetchWord
  rw [if_pos h]

theorem fetchWord_some {s : State} {w : Word} (h : fetchWord s = some w) :
    s.pc.toNat ≤ 0xFFE ∧ w = wordOfBytes (s.readByte s.pc.toNat) (s.readByte (s.pc.toNat + 1)) := by
  unfold fetchWord at h
  split at h
  · cases h
  · exact ⟨by omega, (Option.some.inj h).symm⟩

/-- A word stored at `PC` is the word fetched. -/
theorem fetchWord_storeWord {s : State} (w : Word) (hm : s.mem.wf = true) (h : s.pc.toNat ≤ 0xFFE) :
    fetchWord (s.storeWord s.pc.toNat w) = some w := by
  have hr := fun k hk => Memory.read_writeBytes_inside s.pc.toNat [highByte w, lowByte w] k hk hm
    (by simp only [List.length_cons, List.length_nil]; omega)
  have h0 := hr 0 (by simp)
  have h1 := hr 1 (by simp)
  simp only [Nat.add_zero, List.getElem_cons_zero, List.getElem_cons_succ] at h0 h1
  rw [fetchWord_inside (by exact h)]
  simp [State.storeWord, h0, h1]

/-! ### Range load of registers (R185) -/

/-- `loadRegsFrom` changes nothing but V registers. -/
theorem State.loadRegsFrom_other : ∀ (bs : List Byte) (s : State) (k : Nat),
    s.loadRegsFrom k bs = { s with v := (s.loadRegsFrom k bs).v }
  | [], _, _ => rfl
  | b :: bs, s, k => by
    unfold State.loadRegsFrom
    split
    · rename_i h
      have ih := State.loadRegsFrom_other bs (s.setV ⟨k, h⟩ b) (k + 1)
      rw [ih]; rfl
    · rfl

/-- After a range load from register `k`, register `r` holds byte `r - k` of the list, and registers outside the range
are as before. -/
theorem State.loadRegsFrom_getV : ∀ (bs : List Byte) (s : State) (k : Nat) (r : Reg),
    (s.loadRegsFrom k bs).getV r = if k ≤ r.val then bs.getD (r.val - k) (s.getV r) else s.getV r
  | [], s, k, r => by simp [State.loadRegsFrom]
  | b :: bs, s, k, r => by
    unfold State.loadRegsFrom
    split
    · rename_i h
      rw [State.loadRegsFrom_getV bs]
      by_cases h1 : k + 1 ≤ r.val
      · have h2 : r.val - k = (r.val - (k + 1)) + 1 := by omega
        have h3 : r ≠ ⟨k, h⟩ := fun e => by simp [e] at h1
        rw [if_pos h1, if_pos (by omega), h2, List.getD_cons_succ, State.setV_getV_other _ _ h3]
      · rw [if_neg h1, State.setV_getV]
        by_cases h2 : r.val = k
        · have h3 : r = ⟨k, h⟩ := Fin.ext h2
          simp [h3]
        · rw [if_neg (fun e => h2 (congrArg Fin.val e)), if_neg (by omega)]
    · rename_i h
      rw [if_neg (by omega)]

/-- The values a range store stores (R184): `x + 1` of them, register `k` at place `k`. -/
@[simp] theorem State.length_regsUpTo (s : State) (x : Reg) : (s.regsUpTo x).length = x.val + 1 := by
  simp [State.regsUpTo]

theorem State.getElem_regsUpTo (s : State) (x : Reg) (k : Nat) (hk : k < (s.regsUpTo x).length) :
    (s.regsUpTo x)[k] = s.getV ⟨k, by simp at hk; omega⟩ := by
  simp [State.regsUpTo, State.getV]

/-- The digits LD B stores (R183). -/
@[simp] theorem length_bcdDigits (b : Byte) : (bcdDigits b).length = 3 := rfl

end Sys2Proof.Machine
end

