-- ==== Sys2Proof/Laws/Frames.lean ====
section
/-! SUPPORT. Frames of the shared updates, and how LOAD and RESET answer: what each leaves unchanged, said once. -/

namespace Sys2Proof.Machine

theorem onlyRegs_setV (s : State) (x : Reg) (b : Byte) : onlyRegs [x] s (s.setV x b) :=
  ⟨fun _ hr => State.setV_getV_other s b (by simpa using hr), rfl, rfl, ⟨rfl, rfl⟩, ⟨rfl, rfl⟩, fun _ _ => rfl,
    ⟨rfl, rfl, rfl⟩, fun _ => rfl⟩

theorem onlyRegs_setFlagThenResult (s : State) (x : Reg) (flag result : Byte) :
    onlyRegs [x, VF] s (s.setFlagThenResult x flag result) := by
  refine ⟨fun r hr => ?_, rfl, rfl, ⟨rfl, rfl⟩, ⟨rfl, rfl⟩, fun _ _ => rfl, ⟨rfl, rfl, rfl⟩, fun _ => rfl⟩
  simp only [List.mem_cons, List.not_mem_nil, or_false, not_or] at hr
  rw [State.setFlagThenResult_getV, if_neg hr.1, if_neg hr.2]

theorem onlyPc_setPc (s : State) (a : Word) : onlyPc s (s.setPc a) :=
  ⟨fun _ _ => rfl, rfl, ⟨rfl, rfl⟩, ⟨rfl, rfl⟩, fun _ _ => rfl, ⟨rfl, rfl, rfl⟩, fun _ => rfl⟩

theorem onlyPc_skipIf (s : State) (c : Bool) : onlyPc s (s.skipIf c) := by
  cases c
  · exact ⟨fun _ _ => rfl, rfl, ⟨rfl, rfl⟩, ⟨rfl, rfl⟩, fun _ _ => rfl, ⟨rfl, rfl, rfl⟩, fun _ => rfl⟩
  · exact onlyPc_setPc s _

theorem onlyIndex_setI (s : State) (a : Word) : onlyIndex s (s.setI a) :=
  ⟨fun _ _ => rfl, rfl, ⟨rfl, rfl⟩, ⟨rfl, rfl⟩, fun _ _ => rfl, ⟨rfl, rfl, rfl⟩, fun _ => rfl⟩

theorem onlyMemory_writeBytes (s : State) (base : Nat) (xs : List Byte) :
    onlyMemory base xs.length s (s.setMem (s.mem.writeBytes base xs)) :=
  ⟨fun _ _ => rfl, rfl, rfl, ⟨rfl, rfl⟩, ⟨rfl, rfl⟩, fun _ _ => rfl, ⟨rfl, rfl, rfl⟩,
    fun _ h => Memory.read_writeBytes_outside s.mem base xs h⟩

/-- LOAD accepts an image that fits (R241). -/
theorem loadImage_fits {image : List Byte} (h : image.length ≤ 3584) (s : State) :
    loadImage image s = .next (s.setMem (s.mem.writeBytes 0x200 image)) := by
  unfold loadImage
  exact if_neg (by simpa using h)

/-- LOAD rejects an image that does not fit (R242). -/
theorem loadImage_too_large {image : List Byte} (h : 3584 < image.length) (s : State) :
    loadImage image s = .fault (.errImageTooLarge image.length) := by
  unfold loadImage
  exact if_pos (by simpa using h)

/-- Above the glyph table memory reads 0x00 after RESET (R36). -/
theorem Memory.unlisted_above_glyphs {a : Nat} (h : 0x50 ≤ a) : Memory.unlisted a = 0x00#8 := by
  have hlen : glyphTable.length ≤ 80 := by decide
  unfold Memory.unlisted
  exact List.getD_eq_default _ _ (hlen.trans (by omega))

end Sys2Proof.Machine
end

