-- ==== Sys2Proof/Laws/PerInstr.lean ====
section
/-! SUPPORT. Per-instruction family Encoding: the word of a well-formed instruction lies in its own row of the opcode map
of R85 (its masked bits are the row's pattern, R84). -/

namespace Sys2Proof.Laws.Encoding

/-- The encoded word matches the row of R85 that carries the instruction's number. -/
def Statement (i : Instr) : Prop :=
  i.wellFormed = true → ∃ r ∈ opcodeMap, r.number = i.rowNumber ∧ r.selects (encode i) = true

/-- A word matches a row when its masked bits are the pattern. -/
theorem of_masked {i : Instr} (number : Nat) (pattern mask : Word) (hr : ⟨number, pattern, mask⟩ ∈ opcodeMap)
    (hn : number = i.rowNumber) (h : encode i &&& mask = pattern) : Statement i :=
  fun _ => ⟨_, hr, hn, by simp [OpcodeRow.selects, h]⟩

theorem cls : Statement .cls := of_masked 1 0x00E0 0xFFFF (by decide) rfl (by decide)
theorem ret : Statement .ret := of_masked 2 0x00EE 0xFFFF (by decide) rfl (by decide)
theorem jpNnn (nnn : BitVec 12) : Statement (.jpNnn nnn) :=
  of_masked 3 0x1000 0xF000 (by decide) rfl (and_mask_op _ _)
theorem callNnn (nnn : BitVec 12) : Statement (.callNnn nnn) :=
  of_masked 4 0x2000 0xF000 (by decide) rfl (and_mask_op _ _)
theorem seVxKk (x : Reg) (kk : Byte) : Statement (.seVxKk x kk) :=
  of_masked 5 0x3000 0xF000 (by decide) rfl (and_mask_op_formatRI _ _ _)
theorem sneVxKk (x : Reg) (kk : Byte) : Statement (.sneVxKk x kk) :=
  of_masked 6 0x4000 0xF000 (by decide) rfl (and_mask_op_formatRI _ _ _)
theorem seVxVy (x y : Reg) : Statement (.seVxVy x y) :=
  of_masked 7 0x5000 0xF00F (by decide) rfl (and_mask_minor _ _ _ _)
theorem ldVxKk (x : Reg) (kk : Byte) : Statement (.ldVxKk x kk) :=
  of_masked 8 0x6000 0xF000 (by decide) rfl (and_mask_op_formatRI _ _ _)
theorem addVxKk (x : Reg) (kk : Byte) : Statement (.addVxKk x kk) :=
  of_masked 9 0x7000 0xF000 (by decide) rfl (and_mask_op_formatRI _ _ _)
theorem ldVxVy (x y : Reg) : Statement (.ldVxVy x y) :=
  of_masked 10 0x8000 0xF00F (by decide) rfl (and_mask_minor _ _ _ _)
theorem orVxVy (x y : Reg) : Statement (.orVxVy x y) :=
  of_masked 11 0x8001 0xF00F (by decide) rfl (and_mask_minor _ _ _ _)
theorem andVxVy (x y : Reg) : Statement (.andVxVy x y) :=
  of_masked 12 0x8002 0xF00F (by decide) rfl (and_mask_minor _ _ _ _)
theorem xorVxVy (x y : Reg) : Statement (.xorVxVy x y) :=
  of_masked 13 0x8003 0xF00F (by decide) rfl (and_mask_minor _ _ _ _)
theorem addVxVy (x y : Reg) : Statement (.addVxVy x y) :=
  of_masked 14 0x8004 0xF00F (by decide) rfl (and_mask_minor _ _ _ _)
theorem subVxVy (x y : Reg) : Statement (.subVxVy x y) :=
  of_masked 15 0x8005 0xF00F (by decide) rfl (and_mask_minor _ _ _ _)
theorem shrVxVy (x y : Reg) : Statement (.shrVxVy x y) :=
  of_masked 16 0x8006 0xF00F (by decide) rfl (and_mask_minor _ _ _ _)
theorem subnVxVy (x y : Reg) : Statement (.subnVxVy x y) :=
  of_masked 17 0x8007 0xF00F (by decide) rfl (and_mask_minor _ _ _ _)
theorem shlVxVy (x y : Reg) : Statement (.shlVxVy x y) :=
  of_masked 18 0x800E 0xF00F (by decide) rfl (and_mask_minor _ _ _ _)
theorem sneVxVy (x y : Reg) : Statement (.sneVxVy x y) :=
  of_masked 19 0x9000 0xF00F (by decide) rfl (and_mask_minor _ _ _ _)
theorem ldINnn (nnn : BitVec 12) : Statement (.ldINnn nnn) :=
  of_masked 20 0xA000 0xF000 (by decide) rfl (and_mask_op _ _)
theorem jpV0Nnn (nnn : BitVec 12) : Statement (.jpV0Nnn nnn) :=
  of_masked 21 0xB000 0xF000 (by decide) rfl (and_mask_op _ _)
theorem rndVxKk (x : Reg) (kk : Byte) : Statement (.rndVxKk x kk) :=
  of_masked 22 0xC000 0xF000 (by decide) rfl (and_mask_op_formatRI _ _ _)
theorem drwVxVyN (x y : Reg) (n : Nat) : Statement (.drwVxVyN x y n) :=
  of_masked 23 0xD000 0xF000 (by decide) rfl (and_mask_op_formatRRN _ _ _ _)
theorem skpVx (x : Reg) : Statement (.skpVx x) :=
  of_masked 24 0xE09E 0xF0FF (by decide) rfl (and_mask_byte _ _ _)
theorem sknpVx (x : Reg) : Statement (.sknpVx x) :=
  of_masked 25 0xE0A1 0xF0FF (by decide) rfl (and_mask_byte _ _ _)
theorem ldVxDt (x : Reg) : Statement (.ldVxDt x) :=
  of_masked 26 0xF007 0xF0FF (by decide) rfl (and_mask_byte _ _ _)
theorem ldDtVx (x : Reg) : Statement (.ldDtVx x) :=
  of_masked 27 0xF015 0xF0FF (by decide) rfl (and_mask_byte _ _ _)
theorem ldStVx (x : Reg) : Statement (.ldStVx x) :=
  of_masked 28 0xF018 0xF0FF (by decide) rfl (and_mask_byte _ _ _)
theorem addIVx (x : Reg) : Statement (.addIVx x) :=
  of_masked 29 0xF01E 0xF0FF (by decide) rfl (and_mask_byte _ _ _)
theorem ldFVx (x : Reg) : Statement (.ldFVx x) :=
  of_masked 30 0xF029 0xF0FF (by decide) rfl (and_mask_byte _ _ _)
theorem ldBVx (x : Reg) : Statement (.ldBVx x) :=
  of_masked 31 0xF033 0xF0FF (by decide) rfl (and_mask_byte _ _ _)
theorem ldMemVx (x : Reg) : Statement (.ldMemVx x) :=
  of_masked 32 0xF055 0xF0FF (by decide) rfl (and_mask_byte _ _ _)
theorem ldVxMem (x : Reg) : Statement (.ldVxMem x) :=
  of_masked 33 0xF065 0xF0FF (by decide) rfl (and_mask_byte _ _ _)

end Sys2Proof.Laws.Encoding
end

