-- ==== Sys2Proof/Laws/Step.lean ====
section
/-! SUPPORT. What STEP can answer (R110, R228), said once. -/

namespace Sys2Proof.Machine

/-- A STEP that answers a next state fetched a word, decoded it, and ran the instruction on the advanced state. -/
theorem step_next {s t : State} (h : step s = .next t) :
    ∃ w i, fetchWord s = some w ∧ decodeWord w = some i ∧ exec i s.advance = .next t := by
  unfold step raise at h
  split at h
  · cases h
  · split at h
    · cases h
    · exact ⟨_, _, ‹_›, ‹_›, h⟩

/-- A STEP whose word decodes is the execute stage of that instruction on the advanced state. -/
theorem step_of_decode {s : State} {w : Word} {i : Instr} (hw : fetchWord s = some w) (hi : decodeWord w = some i) :
    step s = exec i s.advance := by
  simp only [step, hw, hi]

theorem step_of_fetch_failed {s : State} (h : fetchWord s = none) : step s = .fault (fetchError s) := by
  simp only [step, h, raise]

theorem step_of_illegal {s : State} {w : Word} (hw : fetchWord s = some w) (hi : decodeWord w = none) :
    step s = .fault (.errUnknownInstruction s.pc w) := by
  simp only [step, hw, hi, raise]

end Sys2Proof.Machine
end

