-- ==== Sys2Proof/Tests/Slice0.lean ====
section
/-! SUPPORT. Tests. Every expected value is copied from spec/95_test_vectors.md (its section is named) or from the rule
named; then one witness for every statement of Certificates/Slice0/Obligations.lean that has hypotheses. -/

namespace Sys2Proof.Machine.Tests

/-! ### Decoding: every constructor by a word written out from R85 and 95_test_vectors.md section 2.1 -/

theorem test_decode_Z : decodeWord 0x00E0 = some .cls ∧ decodeWord 0x00EE = some .ret := by decide

theorem test_decode_A : decodeWord 0x1234 = some (.jpNnn 0x234) ∧ decodeWord 0x2FFF = some (.callNnn 0xFFF) ∧
    decodeWord 0xA000 = some (.ldINnn 0x000) ∧ decodeWord 0xBFFF = some (.jpV0Nnn 0xFFF) := by decide

theorem test_decode_RI : decodeWord 0x3A7F = some (.seVxKk 0xA 0x7F) ∧ decodeWord 0x4000 = some (.sneVxKk 0 0) ∧
    decodeWord 0x6FFF = some (.ldVxKk 0xF 0xFF) ∧ decodeWord 0x7000 = some (.addVxKk 0 0) ∧
    decodeWord 0xCF0F = some (.rndVxKk 0xF 0x0F) := by decide

theorem test_decode_RR : decodeWord 0x5120 = some (.seVxVy 1 2) ∧ decodeWord 0x8120 = some (.ldVxVy 1 2) ∧
    decodeWord 0x8121 = some (.orVxVy 1 2) ∧ decodeWord 0x8122 = some (.andVxVy 1 2) ∧
    decodeWord 0x8123 = some (.xorVxVy 1 2) ∧ decodeWord 0x8124 = some (.addVxVy 1 2) ∧
    decodeWord 0x8125 = some (.subVxVy 1 2) ∧ decodeWord 0x8126 = some (.shrVxVy 1 2) ∧
    decodeWord 0x8127 = some (.subnVxVy 1 2) ∧ decodeWord 0x812E = some (.shlVxVy 1 2) ∧
    decodeWord 0x9AB0 = some (.sneVxVy 0xA 0xB) := by decide

theorem test_decode_RRN : decodeWord 0xD125 = some (.drwVxVyN 1 2 5) ∧ decodeWord 0xD000 = some (.drwVxVyN 0 0 0) := by
  decide

theorem test_decode_R : decodeWord 0xE19E = some (.skpVx 1) ∧ decodeWord 0xE1A1 = some (.sknpVx 1) ∧
    decodeWord 0xF107 = some (.ldVxDt 1) ∧ decodeWord 0xF115 = some (.ldDtVx 1) ∧ decodeWord 0xF118 = some (.ldStVx 1) ∧
    decodeWord 0xF11E = some (.addIVx 1) ∧ decodeWord 0xF129 = some (.ldFVx 1) ∧ decodeWord 0xF133 = some (.ldBVx 1) ∧
    decodeWord 0xF155 = some (.ldMemVx 1) ∧ decodeWord 0xF165 = some (.ldVxMem 1) := by decide

/-- The illegal words of section 2.1. -/
theorem test_decode_illegal_low : decodeWord 0x0000 = none ∧ decodeWord 0x00E1 = none ∧
    decodeWord 0x00FE = none ∧ decodeWord 0x0123 = none ∧ decodeWord 0x5121 = none ∧
    decodeWord 0x8128 = none ∧ decodeWord 0x812D = none ∧ decodeWord 0x812F = none := by decide

/-- The other illegal words of section 2.1. -/
theorem test_decode_illegal_high : decodeWord 0x9AB1 = none ∧ decodeWord 0xE19F = none ∧
    decodeWord 0xE100 = none ∧ decodeWord 0xF10A = none ∧ decodeWord 0xF175 = none ∧
    decodeWord 0xF100 = none ∧ decodeWord 0xFFFF = none := by decide

theorem test_decode_rejects_by_name : decode [0x00] = .rejected .truncated ∧
    decode [0xF1, 0x0A] = .rejected (.unknownInstruction 0xF10A) := by decide

/-- Bytes in memory order, and table numbering: 0xD125 is the word with bit 0 the lowest bit of its second byte. -/
theorem test_table_word : decodeTableWord 16 0xD125 = some (.drwVxVyN 1 2 5) ∧
    tableBytes 16 0xD125 = [0xD1, 0x25] := by decide

theorem test_encode : encode (.drwVxVyN 1 2 5) = 0xD125 ∧ encode (.shlVxVy 1 2) = 0x812E ∧
    encode (.ldMemVx 1) = 0xF155 ∧ encodeBytes (.jpNnn 0x234) = [0x12, 0x34] := by decide

/-! ### WellFormed: the one check, with a term it refuses -/

theorem test_sprite_height_refused : (Instr.drwVxVyN 0 0 16).wellFormed = false := by decide

theorem test_sprite_height_accepted : (Instr.drwVxVyN 0 0 15).wellFormed = true := by decide

/-! ### Small states -/

/-- The state after one STEP of a word fetched at `PC`; the state itself if the STEP reported an error. -/
def ran (s : State) (w : Nat) : State :=
  match step (s.withFetchWord 16 w) with
  | .next t => t
  | .fault _ => s
  | .refused _ => s

/-- The error one STEP of a word reports. -/
def failed (s : State) (w : Nat) : Option Fault := errorOf (step (s.withFetchWord 16 w))

/-- The reset state with two registers set. -/
def regs (x : Reg) (a : Byte) (y : Reg) (b : Byte) : State := (State.reset.setV x a).setV y b

/-- The reset state with `SHIFT_USES_VY` true. -/
def shiftY (s : State) : State := { s with config := ⟨true⟩ }

/-- The reset state with `I` set and some bytes stored there. -/
def withData (i : Word) (bytes : List Byte) : State := (State.reset.setI i).setMem (Memory.writeBytes [] i.toNat bytes)

/-- `SP` calls active, every entry 0x0204. -/
def called (sp : Fin 17) : State := { State.reset with sp := sp, stack := Vector.replicate 16 0x0204 }

/-! ### Fetch and STEP (section 2.2) -/

theorem test_step_odd_address : (ran (State.reset.setPc 0x0201) 0x6207).pc = 0x0203 ∧
    (ran (State.reset.setPc 0x0201) 0x6207).getV 2 = 0x07 := by decide

theorem test_step_last_address : (ran (State.reset.setPc 0x0FFE) 0x6001).pc = 0x1000 := by decide

theorem test_fetch_above_memory : errorOf (step (State.reset.setPc 0x0FFF)) = some (.errAddressRange 0x0FFF 0x1000 0x1000) := by
  decide

theorem test_step_of_reset : stepRecord State.reset =
    ⟨some (.errUnknownInstruction 0x0200 0x0000), 0x0200, some 0x0000, none, false⟩ ∧
    (afterStep State.reset).pc = 0x0202 := by decide

theorem test_record_of_cls : stepRecord (State.reset.withFetchWord 16 0x00E0) =
    ⟨none, 0x0200, some 0x00E0, some 1, true⟩ := by decide

/-! ### Control transfer (section 2.3) -/

theorem test_jp : (ran State.reset 0x1ABC).pc = 0x0ABC := by decide

theorem test_call : (ran (called 15) 0x2300).stack[15] = 0x0202 ∧ (ran (called 15) 0x2300).sp = 16 ∧
    (ran (called 15) 0x2300).pc = 0x0300 := by decide

theorem test_call_full : failed (called 16) 0x2300 = some (.errStackOverflow 0x0200) := by decide

theorem test_ret : (ran (called 1) 0x00EE).pc = 0x0204 ∧ (ran (called 1) 0x00EE).sp = 0 ∧
    (ran (called 1) 0x00EE).stack[0] = 0x0204 := by decide

theorem test_ret_empty : failed (called 0) 0x00EE = some (.errStackUnderflow 0x0200) := by decide

theorem test_se_kk : (ran (regs 1 0x00 2 0) 0x3100).pc = 0x0204 ∧ (ran (regs 1 0x01 2 0) 0x3100).pc = 0x0202 := by decide

theorem test_sne_kk : (ran (regs 2 0x10 3 0) 0x4210).pc = 0x0202 ∧ (ran (regs 2 0x11 3 0) 0x4210).pc = 0x0204 := by
  decide

theorem test_se_vy : (ran (regs 3 0x7F 4 0x7F) 0x5340).pc = 0x0204 ∧ (ran (regs 3 0x7F 4 0x7E) 0x5340).pc = 0x0202 := by
  decide

theorem test_sne_vy : (ran (regs 3 1 4 2) 0x9340).pc = 0x0204 ∧ (ran (regs 3 2 4 2) 0x9340).pc = 0x0202 := by decide

theorem test_jp_v0 : (ran (regs 0 0xFF 2 0x55) 0xBFFF).pc = 0x10FE ∧ (ran (regs 0 0 2 0x55) 0xB2F0).pc = 0x02F0 := by
  decide

/-! ### Load, arithmetic, logic, shift, random (section 2.4) -/

theorem test_ld_kk : (ran State.reset 0x6F01).getV VF = 0x01 := by decide

theorem test_add_kk : (ran (regs 1 0xFF 15 0x07) 0x7101).getV 1 = 0x00 ∧
    (ran (regs 1 0xFF 15 0x07) 0x7101).getV VF = 0x07 := by decide

theorem test_ld_vy : (ran (regs 2 0x9C 1 0) 0x8120).getV 1 = 0x9C := by decide

theorem test_or : (ran (regs 1 0xF0 2 0x0F) 0x8121).getV 1 = 0xFF := by decide

theorem test_and : (ran (regs 1 0xF3 2 0x3F) 0x8122).getV 1 = 0x33 := by decide

theorem test_xor : (ran (regs 1 0xFF 2 0x0F) 0x8123).getV 1 = 0xF0 := by decide

theorem test_add_vy : (ran (regs 1 0xC8 2 0x64) 0x8124).getV 1 = 0x2C ∧ (ran (regs 1 0xC8 2 0x64) 0x8124).getV VF = 1 := by
  decide

theorem test_add_into_vf : (ran (regs 15 0xF0 2 0x20) 0x8F24).getV VF = 0x10 := by decide

theorem test_sub : (ran (regs 1 0x05 2 0x0A) 0x8125).getV 1 = 0xFB ∧ (ran (regs 1 0x05 2 0x0A) 0x8125).getV VF = 0 := by
  decide

theorem test_sub_vf_sampled_first : (ran (regs 1 0x05 15 0x03) 0x81F5).getV 1 = 0x02 ∧
    (ran (regs 15 0x03 2 0x01) 0x8F25).getV VF = 0x02 := by decide

theorem test_shr : (ran (regs 1 0x05 2 0xF1) 0x8126).getV 1 = 0x02 ∧ (ran (regs 1 0x05 2 0xF1) 0x8126).getV VF = 1 := by
  decide

theorem test_shr_uses_vy : (ran (shiftY (regs 1 0x05 2 0xF1)) 0x8126).getV 1 = 0x78 ∧
    (ran (shiftY (regs 1 0x05 2 0xF1)) 0x8126).getV 2 = 0xF1 := by decide

theorem test_subn : (ran (regs 1 0x0A 2 0x05) 0x8127).getV 1 = 0xFB ∧ (ran (regs 1 0x05 2 0x0A) 0x8127).getV VF = 1 := by
  decide

theorem test_shl : (ran (regs 1 0x81 2 0) 0x812E).getV 1 = 0x02 ∧ (ran (regs 15 0x81 2 0) 0x8F0E).getV VF = 0x02 := by
  decide

theorem test_shl_uses_vy : (ran (shiftY (regs 1 0x81 2 0x21)) 0x812E).getV 1 = 0x42 ∧
    (ran (shiftY (regs 1 0x81 2 0x21)) 0x812E).getV VF = 0 := by decide

/-- The rule for the draw A7 (R162). -/
theorem test_rnd : ∃ t, withDraw 0xA7 3 0x0F State.reset = .next t ∧ t.getV 3 = 0x07 ∧ t.draws = 1 :=
  ⟨_, rfl, by decide, by decide⟩

/-! ### Index and memory (section 2.5) -/

theorem test_ld_i : (ran State.reset 0xA2F0).i = 0x02F0 := by decide

theorem test_add_i : (ran ((regs 2 0x02 3 0).setI 0xFFFF) 0xF21E).i = 0x0001 := by decide

theorem test_ld_f : (ran (regs 4 0x0A 3 0) 0xF429).i = 0x0032 := by decide

theorem test_ld_f_rejects : failed (regs 4 0x10 3 0) 0xF429 = some (.errGlyphIndex 0x0200 0x10) := by decide

theorem test_ld_b : (ran ((regs 0 0x7B 1 0).setI 0x0300) 0xF033).mem.readBytes 0x300 3 = [1, 2, 3] := by decide

theorem test_ld_b_out_of_range : failed ((regs 0 9 1 0).setI 0x0FFE) 0xF033 =
    some (.errAddressRange 0x0200 0x1000 0x1000) := by decide

/-- The first offending address (R220) and the highest one (R183) where they differ. -/
theorem test_range_error_addresses :
    failed (State.reset.setI 0x0FFF) 0xF033 = some (.errAddressRange 0x0200 0x1000 0x1001) ∧
    failed (State.reset.setI 0x1500) 0xF033 = some (.errAddressRange 0x0200 0x1500 0x1502) := by decide

theorem test_ld_mem_inclusive : (ran ((regs 0 0xAA 1 0xBB).setI 0x0400) 0xF055).mem.readBytes 0x400 2 = [0xAA, 0x00] := by
  decide

theorem test_ld_mem_out_of_range : failed ((regs 0 0xAA 1 0xBB).setI 0x0FFF) 0xF155 =
    some (.errAddressRange 0x0200 0x1000 0x1000) := by decide

theorem test_ld_vx_mem : (ran (withData 0x0400 [0x11, 0x22, 0x33, 0x44, 0x55]) 0xF365).getV 3 = 0x44 ∧
    (ran (withData 0x0400 [0x11, 0x22, 0x33, 0x44, 0x55]) 0xF365).getV 4 = 0x00 := by decide

theorem test_ld_vx_glyph_table : (ran State.reset 0xF165).getV 0 = 0xF0 ∧ (ran State.reset 0xF165).getV 1 = 0x90 := by
  decide

/-! ### Framebuffer (section 2.6) -/

theorem test_cls : (ran (State.reset.setFb (Vector.replicate 32 0xFFFF#64)) 0x00E0).fb = FrameBuffer.clear := by decide

/-- The glyph-0 pattern at (0, 0), no collision (R202's example, P1). -/
theorem test_drw_glyph_zero : (ran State.reset 0xD005).fb.toList.take 6 =
    [0xF000000000000000, 0x9000000000000000, 0x9000000000000000, 0x9000000000000000, 0xF000000000000000, 0] ∧
    (ran State.reset 0xD005).getV VF = 0 := by decide

theorem test_drw_clips_at_the_right : (ran ((withData 0x0300 [0xFF]).setV 0 0x3E) 0xD011).fb[0] = 3 := by decide

/-! ### Keys, timers and commands (sections 2.7 and 2.8) -/

theorem test_skp_low_nibble : (ran ((regs 5 0x1A 0 0).setKey 0xA true) 0xE59E).pc = 0x0204 := by decide

theorem test_sknp : (ran ((regs 5 0x07 0 0).setKey 7 true) 0xE5A1).pc = 0x0202 ∧
    (ran (regs 5 0x07 0 0) 0xE5A1).pc = 0x0204 := by decide

theorem test_ld_vx_dt : (ran (State.reset.setDt 0x03) 0xF207).getV 2 = 0x03 := by decide

theorem test_ld_dt : (ran (regs 2 0x3C 0 0) 0xF215).dt = 0x3C := by decide

theorem test_ld_st : (ran (regs 3 0x02 0 0) 0xF318).st = 0x02 ∧ soundOn (ran (regs 3 0x02 0 0) 0xF318) = true := by decide

theorem test_tick : (tick ((State.reset.setDt 0x01).setSt 0xFF)).dt = 0x00 ∧
    (tick ((State.reset.setDt 0x01).setSt 0xFF)).st = 0xFE ∧ (tick State.reset).dt = 0x00 := by decide

theorem test_set_key : (setKeyCommand 7 true State.reset).getKey 7 = true ∧
    (setKeyCommand 7 true State.reset).getKey 6 = false := by decide

theorem test_load : (runIgnoringErrors [.reset, .load [0xA0, 0x00, 0x60, 0x00, 0xD0, 0x05]] (called 3)).mem.readBytes 0x200 7 =
    [0xA0, 0x00, 0x60, 0x00, 0xD0, 0x05, 0x00] := by decide

/-- A store of what the address reads as when unlisted removes the entry. -/
theorem test_write_is_canonical : Memory.write [(0x300, 7)] 0x300 0 = [] ∧ Memory.write [] 0x000 0xF0 = [] ∧
    Memory.write [(0x300, 7)] 0x200 1 = [(0x200, 1), (0x300, 7)] := by decide

/-! ### Witnesses: a state and operands that meet the hypotheses of each statement, at the boundaries of its clauses -/

/-- `6A2B` at 0x200 (R151's example), for the statements about a STEP that answers a next state. -/
def running : State := State.reset.withFetchWord 16 0x6A2B

theorem witness_running : running.pc.toNat ≤ 0xFFE ∧ running.wordAtPc = 0x6A2B ∧
    decode [running.readByte running.pc.toNat, running.readByte (running.pc.toNat + 1)] =
      .instr (.ldVxKk 0xA 0x2B) [] ∧ decodeWord running.wordAtPc = some (.ldVxKk 0xA 0x2B) ∧
    mayWriteV (.ldVxKk 0xA 0x2B) 0 = false := by decide

theorem witness_running_steps : ∃ t, step running = .next t := ⟨_, rfl⟩

theorem witness_running_invariant : running.Inv := ⟨by decide, by decide, by decide⟩

/-- A skip that is taken: the clause of ProgramCounterFollows that allows 4. -/
theorem witness_skip_steps : ∃ t, step (State.reset.withFetchWord 16 0x3100) = .next t ∧ t.pc.toNat = 0x204 :=
  ⟨_, rfl, by decide⟩

theorem witness_decode_of_encode : (Instr.drwVxVyN 15 15 15).wellFormed = true := by decide

theorem witness_encode_of_decode : decodeWord 0xDFFF = some (.drwVxVyN 15 15 15) := by decide

theorem witness_row_selects : (⟨14, 0x8004, 0xF00F⟩ : OpcodeRow) ∈ opcodeMap ∧
    (⟨14, 0x8004, 0xF00F⟩ : OpcodeRow).selects 0x8124 = true := by decide

theorem witness_fetch_at_last_address : (State.reset.setPc 0x0FFE).pc.toNat ≤ 0xFFE ∧
    decode [((State.reset.setPc 0x0FFE).withFetchWord 16 0x6001).readByte 0xFFE,
      ((State.reset.setPc 0x0FFE).withFetchWord 16 0x6001).readByte 0xFFF] = .instr (.ldVxKk 0 1) [] := by decide

theorem witness_illegal_word : State.reset.pc.toNat ≤ 0xFFE ∧
    ∀ r ∈ opcodeMap, r.selects State.reset.wordAtPc = false := by decide

theorem witness_fetch_above : 0xFFE < (State.reset.setPc 0x0FFF).pc.toNat ∧ max (0x0FFF : Nat) 0x1000 = 0x1000 ∧
    0xFFE < (State.reset.setPc 0x10FE).pc.toNat := by decide

theorem witness_step_faults : step State.reset = .fault (.errUnknownInstruction 0x0200 0x0000) := rfl

theorem witness_ended : (State.reset.withFetchWord 16 0x1200).ended ∧
    ((State.reset.setPc 0x0FFE).withFetchWord 16 0x1FFE).ended :=
  ⟨⟨by decide, 0x200, by decide, by decide⟩, ⟨by decide, 0xFFE, by decide, by decide⟩⟩

theorem witness_flag_not_destination : (14 : Reg) ≠ VF := by decide

theorem witness_shift_source : (State.reset.getV 2 = if State.reset.config.shiftUsesVy = true then State.reset.getV 1 else
      State.reset.getV 2) ∧ (shiftY State.reset).config.shiftUsesVy = true := by decide

theorem witness_call : (called 15).sp.val < 16 ∧ (called 16).sp.val = 16 := by decide

theorem witness_return : 0 < (called 1).sp.val ∧ (called 0).sp.val = 0 := by decide

theorem witness_call_on_full_stack : ((called 16).withFetchWord 16 0x2300).pc.toNat ≤ 0xFFE ∧
    decodeWord ((called 16).withFetchWord 16 0x2300).wordAtPc = some (.callNnn 0x300) ∧
    ((called 16).withFetchWord 16 0x2300).sp.val = 16 := by decide

theorem witness_return_on_empty_stack : (State.reset.withFetchWord 16 0x00EE).pc.toNat ≤ 0xFFE ∧
    decodeWord (State.reset.withFetchWord 16 0x00EE).wordAtPc = some .ret ∧
    (State.reset.withFetchWord 16 0x00EE).sp.val = 0 := by decide

theorem witness_return_in_invariant : (called 1).Inv ∧ 0 < (called 1).sp.val :=
  ⟨⟨by decide, by decide, by decide⟩, by decide⟩

theorem witness_clear_step : (State.reset.withFetchWord 16 0x00E0).pc.toNat ≤ 0xFFE ∧
    decodeWord (State.reset.withFetchWord 16 0x00E0).wordAtPc = some .cls := by decide

theorem witness_key : (0xA : Reg).val = ((regs 5 0x1A 0 0).getV 5).toNat % 16 := by decide

theorem witness_glyph : ((regs 4 0x0F 5 0x10).getV 4).toNat ≤ 15 ∧ 15 < ((regs 4 0x0F 5 0x10).getV 5).toNat := by decide

theorem witness_digits : State.reset.mem.wf = true ∧ (State.reset.setI 0x0FFD).i.toNat + 2 ≤ 0xFFF ∧
    0xFFF < (State.reset.setI 0x0FFE).i.toNat + 2 := by decide

theorem witness_range : State.reset.mem.wf = true ∧ (State.reset.setI 0x0FF0).i.toNat + (15 : Reg).val ≤ 0xFFF ∧
    0xFFF < (State.reset.setI 0x0FF1).i.toNat + (15 : Reg).val := by decide

theorem witness_store_seen : 0 + 1 ≤ (1 : Reg).val ∧ (State.reset.setI 0x0FFE).i.toNat + (1 : Reg).val ≤ 0xFFF ∧
    (0x0FFE : Word).toNat = (State.reset.setI 0x0FFE).i.toNat + 0 := by decide

theorem witness_equal_reads : Memory.wf [(0x300, 7)] = true ∧
    ∀ a, Memory.read [(0x300, 7)] a = Memory.read [(0x300, 7)] a := ⟨by decide, fun _ => rfl⟩

theorem witness_draw_in_range : (State.reset.setI 0x0FFD).i.toNat + 3 - 1 ≤ 0xFFF ∧
    0xFFF < (State.reset.setI 0x0FFE).i.toNat + 3 - 1 := by decide

/-- A sprite bit of 1 at the last pixel of the grid, on a set pixel: bit 7 of 0xC0 at (31, 63) (section 2.6). -/
def lastPixel : State := (((withData 0x0300 [0xC0]).setV 0 0xFF).setV 1 0xFF).setFb (Vector.replicate 32 1#64)

theorem witness_draw_collides : spriteCollides lastPixel 0 1 1 :=
  ⟨31, 63, by decide, by decide, ⟨0, 0, by decide, by decide, by decide, by decide, by decide⟩, by decide⟩

/-- The same sprite with no row at all lands nowhere. -/
theorem witness_draw_lands_nowhere : ¬ spriteCollides lastPixel 0 1 0 ∧ ¬ spritePixel lastPixel 0 1 0 31 63 :=
  ⟨fun ⟨_, _, _, _, ⟨_, _, hr, _⟩, _⟩ => absurd hr (Nat.not_lt_zero _), fun ⟨_, _, hr, _⟩ => absurd hr (Nat.not_lt_zero _)⟩

theorem witness_second_draw_on_unset : spritePixel (lastPixel.setFb FrameBuffer.clear) 0 1 1 31 63 ∧
    (lastPixel.setFb FrameBuffer.clear).fb.pixel 31 63 = false :=
  ⟨⟨0, 0, by decide, by decide, by decide, by decide, by decide⟩, by decide⟩

theorem witness_two_draws : ∃ t u, (0 : Reg) ≠ VF ∧ (1 : Reg) ≠ VF ∧ exec (.drwVxVyN 0 1 1) lastPixel = .next t ∧
    exec (.drwVxVyN 0 1 1) t = .next u := ⟨_, _, by decide, by decide, rfl, rfl⟩

theorem witness_image_lengths : (List.replicate 3584 (0 : Byte)).length ≤ 3584 ∧
    3584 < (List.replicate 3585 (0 : Byte)).length :=
  ⟨by rw [List.length_replicate], by rw [List.length_replicate]; omega⟩

theorem witness_shortest_launch : ((0x12 : Byte) :: 0x00 :: []).length ≤ 3584 := by decide

theorem witness_schedule : ∃ t, runSchedule [.reset, .load [0x12, 0x00], .step, .tick, .setKey 5 true] (called 3) = .next t :=
  ⟨_, rfl⟩

end Sys2Proof.Machine.Tests
end

/-! PROOFS. Family 00_scope: what an instruction that can fail answers, what every schedule of commands keeps (one
induction for every such rule), and the strap, which no command changes (R9, R262). -/

namespace Sys2Proof.Machine

/-! ### The instructions that can fail, when they answer a next state -/

/-- RET answers a next state only after a pop, and goes to the popped address (R130). -/
theorem execRet_next {s t : State} (h : execRet s = .next t) : ∃ a u, s.pop = some (a, u) ∧ t = u.setPc a := by
  unfold execRet at h
  split at h
  · cases h
  · cases h; exact ⟨_, _, ‹_›, rfl⟩

/-- CALL answers a next state only after a push of `PC`, and goes to its address (R132). -/
theorem execCallNnn_next {nnn : BitVec 12} {s t : State} (h : execCallNnn nnn s = .next t) :
    ∃ u, s.push s.pc = some u ∧ t = u.setPc (zextAddr nnn) := by
  unfold execCallNnn at h
  split at h
  · cases h
  · cases h; exact ⟨_, ‹_›, rfl⟩

/-- LD F answers a next state only for a value of at most 15, and writes `I` alone (R182). -/
theorem execLdFVx_next {x : Reg} {s t : State} (h : execLdFVx x s = .next t) :
    (s.getV x).toNat ≤ 15 ∧ t = s.setI (glyphAddr (s.getV x)) := by
  unfold execLdFVx at h
  split at h
  · cases h
  · cases h; exact ⟨by omega, rfl⟩

/-- LOAD answers a next state only for an image that fits, and writes memory alone (R241, R242). -/
theorem loadImage_next {image : List Byte} {s t : State} (h : loadImage image s = .next t) :
    image.length ≤ 3584 ∧ t = s.setMem (s.mem.writeBytes 0x200 image) := by
  by_cases hfit : image.length ≤ 3584
  · rw [loadImage_fits hfit] at h; cases h; exact ⟨hfit, rfl⟩
  · rw [loadImage_too_large (by omega)] at h; cases h

/-! ### What every schedule keeps -/

/-- The state right after a STEP: the next state it answered, or what the error of its stage leaves (R225, R227). -/
theorem afterStep_cases (s : State) :
    step s = .next (afterStep s) ∨ afterStep s = s ∨ (s.pc.toNat ≤ 0xFFE ∧ afterStep s = s.advance) := by
  unfold afterStep
  split
  · exact .inl ‹_›
  · unfold State.afterError
    split
    · exact .inr (.inl rfl)
    · exact .inr (.inr ⟨by omega, rfl⟩)
  · exact .inr (.inl rfl)

/-- The state right after a command, whatever its result: the next state it answered, the state it found, or, when a
STEP failed after its fetch, that state with `PC` advanced (R227). -/
theorem afterCommand_cases (c : Command) (s : State) :
    perform c s = .next (afterCommand c s) ∨ afterCommand c s = s ∨
      (s.pc.toNat ≤ 0xFFE ∧ afterCommand c s = s.advance) := by
  cases c with
  | step => exact afterStep_cases s
  | load image =>
    simp only [perform, afterCommand]
    split
    · exact .inl ‹_›
    · exact .inr (.inl rfl)
    · exact .inr (.inl rfl)
  | reset | tick | setKey => exact .inl rfl

section
variable {P : State → Prop} (hperform : ∀ c s t, P s → perform c s = .next t → P t)
include hperform

/-- What every command that answers keeps holds at the end of every schedule that completes. -/
theorem runSchedule_keeps {cs : List Command} {s t : State} (hs : P s) (h : runSchedule cs s = .next t) : P t := by
  induction cs generalizing s with
  | nil => cases h; exact hs
  | cons c cs ih =>
    unfold runSchedule at h
    split at h
    · exact ih (hperform _ _ _ hs ‹_›) h
    · cases h
    · cases h

/-- What every command that answers keeps, and the advance of the fetch keeps too, holds after every schedule whose
errors are ignored (R231). -/
theorem runIgnoringErrors_keeps (hadvance : ∀ s : State, s.pc.toNat ≤ 0xFFE → P s → P s.advance)
    (cs : List Command) {s : State} (hs : P s) : P (runIgnoringErrors cs s) := by
  induction cs generalizing s with
  | nil => exact hs
  | cons c cs ih =>
    refine ih ?_
    obtain hnext | hsame | ⟨hpc, hadv⟩ := afterCommand_cases c s
    · exact hperform _ _ _ hs hnext
    · rwa [hsame]
    · rw [hadv]; exact hadvance s hpc hs

end

/-! ### The strap -/

/-- No instruction changes the strap (R9). -/
theorem exec_next_config {i : Instr} {s t : State} (h : exec i s = .next t) : t.config = s.config := by
  cases i with
  | ret =>
    obtain ⟨a, u, hpop, rfl⟩ := execRet_next h
    obtain ⟨_, _, rfl⟩ := State.pop_some hpop
    rfl
  | callNnn nnn =>
    obtain ⟨u, hpush, rfl⟩ := execCallNnn_next h
    obtain ⟨_, rfl⟩ := State.push_some hpush
    rfl
  | seVxKk | sneVxKk | seVxVy | sneVxVy | skpVx | sknpVx => cases h; exact State.skipIf_config _ _
  | ldFVx x => obtain ⟨_, rfl⟩ := execLdFVx_next h; rfl
  | drwVxVyN | ldBVx | ldMemVx => cases (withinMemory_next h).1; rfl
  | ldVxMem x => cases (withinMemory_next h).1; rw [State.loadRegsFrom_other]
  -- every other instruction answers a named update of the state, none of which touches the strap
  | _ => cases h; rfl

/-- No command changes the strap, RESET included (R262). -/
theorem perform_next_config {c : Command} {s t : State} (h : perform c s = .next t) : t.config = s.config := by
  cases c with
  | reset | tick | setKey => cases h; rfl
  | load image => obtain ⟨_, rfl⟩ := loadImage_next h; rfl
  | step =>
    obtain ⟨_, _, _, _, hexec⟩ := step_next h
    exact (exec_next_config hexec).trans s.advance_config

/-- Settles O52: every command that answers keeps the strap and so does the advance of the fetch, hence every schedule
does, whether its errors end the run or are ignored. -/
theorem strapIsFixedForTheSession : Obligations.StrapIsFixedForTheSession := by
  intro cs s
  have hperform : ∀ c u t, u.config = s.config → perform c u = .next t → t.config = s.config :=
    fun _ _ _ hu h => (perform_next_config h).trans hu
  exact ⟨fun _ h => runSchedule_keeps hperform rfl h,
    runIgnoringErrors_keeps hperform (fun _ _ hu => hu) cs rfl⟩

end Sys2Proof.Machine

/-! PROOFS. Family 10_state: what an executed instruction can write, said once by kind of write; from it the frames of
STEP (R23 to R32, R64), where `PC` goes (R26) and the invariant. Then the canonical form of memory (R33, R51), and the
sound timer, which no command reads (R34). -/

namespace Sys2Proof.Machine

/-! ### What an executed instruction can write -/

/-- The states the execute stage may answer, one constructor per kind of write. As in `exec`, `s` is the state that the
fetch's advance left. -/
inductive Effect (s : State) : Instr → State → Prop where
  /-- 42_alu.md, LD Vx, DT and the range load: registers the instruction may write, and for RND the count of bytes. -/
  | registers {i : Instr} (v : Vector Byte 16) (draws : Nat)
      (hv : ∀ r : Reg, mayWriteV i r = false → v[r.val] = s.getV r) : Effect s i { s with v := v, draws := draws }
  /-- CLS (R201). -/
  | clear : Effect s .cls (s.setFb FrameBuffer.clear)
  /-- DRW (R202): pixels and `VF`. -/
  | draw (x y : Reg) (n : Nat) (f : FrameBuffer) (flag : Byte) : Effect s (.drwVxVyN x y n) ((s.setFb f).setV VF flag)
  /-- The six skips (R138). -/
  | skip {i : Instr} (hi : i.rowNumber ∈ [5, 6, 7, 19, 24, 25]) {a : Word} (ha : a = s.pc ∨ a = s.pc + 2#16) :
      Effect s i (s.setPc a)
  /-- JP and JP V0 (R131, R137). -/
  | jump {i : Instr} (hi : (∃ nnn, i = .jpNnn nnn) ∨ ∃ nnn, i = .jpV0Nnn nnn) {a : Word} (ha : a.toNat ≤ 0x10FE) :
      Effect s i (s.setPc a)
  /-- CALL (R132). -/
  | call (nnn : BitVec 12) (hsp : s.sp.val < 16) : Effect s (.callNnn nnn)
      { s with stack := s.stack.set s.sp.val s.pc, sp := ⟨s.sp.val + 1, by omega⟩, pc := zextAddr nnn }
  /-- RET (R130). -/
  | ret (hsp : 0 < s.sp.val) : Effect s .ret
      { s with sp := ⟨s.sp.val - 1, by omega⟩, pc := s.stack[s.sp.val - 1]'(by omega) }
  /-- LD I, ADD I and LD F (R180 to R182). -/
  | index {i : Instr} (hi : (∃ nnn, i = .ldINnn nnn) ∨ (∃ x, i = .addIVx x) ∨ ∃ x, i = .ldFVx x) (a : Word) :
      Effect s i (s.setI a)
  /-- LD DT (R213). -/
  | delayTimer (x : Reg) : Effect s (.ldDtVx x) (s.setDt (s.getV x))
  /-- LD ST (R214). -/
  | soundTimer (x : Reg) : Effect s (.ldStVx x) (s.setSt (s.getV x))
  /-- LD B and LD [I], Vx (R183, R184): bytes inside memory (R56). -/
  | store {i : Instr} (hi : (∃ x, i = .ldBVx x) ∨ ∃ x, i = .ldMemVx x) {base : Nat} {bytes : List Byte}
      (hin : base + bytes.length ≤ 4096) : Effect s i (s.setMem (s.mem.writeBytes base bytes))

namespace Effect

variable {s t : State} {i : Instr}

theorem setV {x : Reg} (b : Byte) (hx : ∀ r, mayWriteV i r = false → r ≠ x) : Effect s i (s.setV x b) :=
  .registers _ _ fun r hr => State.setV_getV_other s b (hx r hr)

theorem setFlagThenResult {x : Reg} (flag result : Byte) (hx : ∀ r, mayWriteV i r = false → ¬(r = x ∨ r = VF)) :
    Effect s i (s.setFlagThenResult x flag result) :=
  .registers _ _ fun r hr => by
    obtain ⟨hrx, hrf⟩ := not_or.1 (hx r hr)
    exact (State.setV_getV_other _ result hrx).trans (State.setV_getV_other s flag hrf)

/-- A range load of `x + 1` bytes writes `V0` to `Vx` alone (R185). -/
theorem loadRegs (x : Reg) {bytes : List Byte} (hlen : bytes.length = x.val + 1) :
    Effect s (.ldVxMem x) (s.loadRegsFrom 0 bytes) := by
  rw [State.loadRegsFrom_other]
  refine .registers _ _ fun r hr => ?_
  have hxr : ¬r.val ≤ x.val := of_decide_eq_false hr
  have hr' := State.loadRegsFrom_getV bytes s 0 r
  rwa [if_pos (Nat.zero_le _), List.getD_eq_default _ _ (by omega)] at hr'

theorem skipIf (c : Bool) (hi : i.rowNumber ∈ [5, 6, 7, 19, 24, 25]) : Effect s i (s.skipIf c) := by
  cases c
  · exact .skip hi (.inl rfl)
  · exact .skip hi (.inr rfl)

end Effect

/-- An instruction that answers a next state has written what its kind writes. -/
theorem exec_effect {i : Instr} {s t : State} (h : exec i s = .next t) : Effect s i t := by
  cases i with
  | cls => cases h; exact .clear
  | ret =>
    obtain ⟨_, _, hpop, rfl⟩ := execRet_next h
    obtain ⟨hsp, rfl, rfl⟩ := State.pop_some hpop
    exact .ret hsp
  | callNnn nnn =>
    obtain ⟨_, hpush, rfl⟩ := execCallNnn_next h
    obtain ⟨hsp, rfl⟩ := State.push_some hpush
    exact .call nnn hsp
  | jpNnn nnn =>
    cases h
    exact .jump (.inl ⟨nnn, rfl⟩) (by rw [toNat_zextAddr]; omega)
  | jpV0Nnn nnn =>
    cases h
    exact .jump (.inr ⟨nnn, rfl⟩) (by rw [toNat_offsetTarget]; omega)
  | seVxKk | sneVxKk | seVxVy | sneVxVy | skpVx | sknpVx => cases h; exact .skipIf _ (by simp [Instr.rowNumber])
  | ldVxKk | addVxKk | ldVxVy | orVxVy | andVxVy | xorVxVy | ldVxDt =>
    cases h; exact .setV _ fun _ => of_decide_eq_false
  | addVxVy | subVxVy | shrVxVy | subnVxVy | shlVxVy =>
    cases h; exact .setFlagThenResult _ _ fun _ => of_decide_eq_false
  | rndVxKk x kk =>
    cases h
    exact .registers _ _ fun r hr => State.setV_getV_other s.countDraw _ (of_decide_eq_false hr)
  | drwVxVyN x y n => cases (withinMemory_next h).1; exact .draw x y n _ _
  | ldINnn nnn => cases h; exact .index (.inl ⟨nnn, rfl⟩) _
  | addIVx x => cases h; exact .index (.inr (.inl ⟨x, rfl⟩)) _
  | ldFVx x => obtain ⟨_, rfl⟩ := execLdFVx_next h; exact .index (.inr (.inr ⟨x, rfl⟩)) _
  | ldDtVx x => cases h; exact .delayTimer x
  | ldStVx x => cases h; exact .soundTimer x
  | ldBVx x =>
    obtain ⟨hk, hin⟩ := withinMemory_next h
    cases hk
    exact .store (.inl ⟨x, rfl⟩) (by rw [length_bcdDigits]; omega)
  | ldMemVx x =>
    obtain ⟨hk, hin⟩ := withinMemory_next h
    cases hk
    exact .store (.inr ⟨x, rfl⟩) (by rw [State.length_regsUpTo]; omega)
  | ldVxMem x => cases (withinMemory_next h).1; exact .loadRegs x (Memory.length_readBytes _ _ _)

/-- A STEP that answers a next state fetched inside memory, and its instruction has written what its kind writes. -/
theorem step_effect {s t : State} (h : step s = .next t) :
    s.pc.toNat ≤ 0xFFE ∧ ∃ i, decodeWord s.wordAtPc = some i ∧ Effect s.advance i t := by
  obtain ⟨w, i, hw, hi, hexec⟩ := step_next h
  obtain ⟨hpc, rfl⟩ := fetchWord_some hw
  exact ⟨hpc, i, hi, exec_effect hexec⟩

/-- The same for the instruction that the word at `PC` is known to decode to. -/
theorem step_effect_of_decode {s t : State} {i : Instr} (h : step s = .next t)
    (hi : decodeWord s.wordAtPc = some i) : s.pc.toNat ≤ 0xFFE ∧ Effect s.advance i t := by
  obtain ⟨hpc, j, hj, heffect⟩ := step_effect h
  cases hi.symm.trans hj
  exact ⟨hpc, heffect⟩

/-- Near the end of memory the addition modulo 65536 does not wrap (R26). -/
theorem toNat_add_two {a : Word} (h : a.toNat ≤ 0x1000) : (a + 2#16).toNat = a.toNat + 2 := by
  bv_omega

/-- After a fetch inside memory the advance does not wrap (R111, R112). -/
theorem State.advance_pc_toNat {s : State} (h : s.pc.toNat ≤ 0xFFE) : s.advance.pc.toNat = s.pc.toNat + 2 :=
  toNat_add_two (by omega)

/-! ### The invariant -/

/-- Settles O45: right after RESET nothing is listed in memory, `PC` is 0x200 and every stack entry is zero. -/
theorem resetMeetsInvariant : Obligations.ResetMeetsInvariant :=
  ⟨Memory.wf_nil, by decide, by decide⟩

/-- The advance of the fetch keeps the invariant. -/
theorem State.Inv.advance {s : State} (hs : s.Inv) (hpc : s.pc.toNat ≤ 0xFFE) : s.advance.Inv where
  memory := hs.memory
  pcBound := by rw [State.advance_pc_toNat hpc]; omega
  stackBound := hs.stackBound

/-- A `PC` inside its bound may replace the one there is. -/
theorem State.Inv.setPc {s : State} (hs : s.Inv) {a : Word} (ha : a.toNat ≤ 0x10FE) : (s.setPc a).Inv :=
  ⟨hs.memory, ha, hs.stackBound⟩

/-- An executed instruction keeps the invariant: after the fetch `PC` is at most 0x1000 (R112), so that CALL pushes no
more than that, and RET pops what a CALL pushed (R130). -/
theorem Effect.inv {s t : State} {i : Instr} (h : Effect s i t) (hs : s.Inv) (hpc : s.pc.toNat ≤ 0x1000) : t.Inv := by
  cases h with
  | skip _ ha =>
    obtain rfl | rfl := ha
    · exact hs
    · exact hs.setPc (by rw [toNat_add_two hpc]; omega)
  | jump _ ha => exact hs.setPc ha
  | call nnn hsp =>
    refine ⟨hs.memory, by rw [toNat_zextAddr]; omega, fun k => ?_⟩
    rw [Vector.getElem_set]
    split
    · exact hpc
    · exact hs.stackBound k
  | ret hsp => exact ⟨hs.memory, (hs.stackBound ⟨s.sp.val - 1, by omega⟩).trans (by omega), hs.stackBound⟩
  | store _ hin => exact ⟨Memory.wf_writeBytes _ hs.memory hin, hs.pcBound, hs.stackBound⟩
  -- every other kind of write leaves memory, `PC` and the stack alone
  | _ => exact ⟨hs.memory, hs.pcBound, hs.stackBound⟩

/-- Settles O46: the advance of the fetch keeps the invariant, and so does what the instruction then writes. -/
theorem stepKeepsInvariant : Obligations.StepKeepsInvariant := by
  intro s t hs h
  obtain ⟨hpc, i, -, heffect⟩ := step_effect h
  exact heffect.inv (hs.advance hpc) (by rw [State.advance_pc_toNat hpc]; omega)

/-! ### Frames -/

namespace Effect

variable {s t : State} {i : Instr}

theorem getV_eq {r : Reg} (h : Effect s i t) (hr : mayWriteV i r = false) : t.getV r = s.getV r := by
  cases h with
  | registers _ _ hv => exact hv r hr
  | draw _ _ _ f flag => exact State.setV_getV_other (s.setFb f) flag (of_decide_eq_false hr)
  | _ => rfl

theorem i_eq (h : Effect s i t) (hld : ∀ nnn, i ≠ .ldINnn nnn) (hadd : ∀ x, i ≠ .addIVx x) (hf : ∀ x, i ≠ .ldFVx x) :
    t.i = s.i := by
  cases h with
  | index hi =>
    obtain ⟨nnn, rfl⟩ | ⟨x, rfl⟩ | ⟨x, rfl⟩ := hi
    · exact absurd rfl (hld nnn)
    · exact absurd rfl (hadd x)
    · exact absurd rfl (hf x)
  | _ => rfl

theorem stack_eq (h : Effect s i t) (hcall : ∀ nnn, i ≠ .callNnn nnn) : t.stack = s.stack := by
  cases h with
  | call nnn => exact absurd rfl (hcall nnn)
  | _ => rfl

theorem sp_eq (h : Effect s i t) (hcall : ∀ nnn, i ≠ .callNnn nnn) (hret : i ≠ .ret) : t.sp = s.sp := by
  cases h with
  | call nnn => exact absurd rfl (hcall nnn)
  | ret => exact absurd rfl hret
  | _ => rfl

theorem dt_eq (h : Effect s i t) (hdt : ∀ x, i ≠ .ldDtVx x) : t.dt = s.dt := by
  cases h with
  | delayTimer x => exact absurd rfl (hdt x)
  | _ => rfl

theorem st_eq (h : Effect s i t) (hst : ∀ x, i ≠ .ldStVx x) : t.st = s.st := by
  cases h with
  | soundTimer x => exact absurd rfl (hst x)
  | _ => rfl

theorem key_eq (h : Effect s i t) : t.key = s.key := by
  cases h <;> rfl

theorem mem_eq (h : Effect s i t) (hb : ∀ x, i ≠ .ldBVx x) (hrange : ∀ x, i ≠ .ldMemVx x) : t.mem = s.mem := by
  cases h with
  | store hi =>
    obtain ⟨x, rfl⟩ | ⟨x, rfl⟩ := hi
    · exact absurd rfl (hb x)
    · exact absurd rfl (hrange x)
  | _ => rfl

theorem fb_eq (h : Effect s i t) (hcls : i ≠ .cls) (hdrw : ∀ x y n, i ≠ .drwVxVyN x y n) : t.fb = s.fb := by
  cases h with
  | clear => exact absurd rfl hcls
  | draw x y n => exact absurd rfl (hdrw x y n)
  | _ => rfl

/-- But for the four transfers an instruction leaves `PC` where the fetch's advance put it, or skips one (R138). -/
theorem pc_cases (h : Effect s i t) (hret : i ≠ .ret) (hjp : ∀ nnn, i ≠ .jpNnn nnn) (hcall : ∀ nnn, i ≠ .callNnn nnn)
    (hjpV0 : ∀ nnn, i ≠ .jpV0Nnn nnn) :
    t.pc = s.pc ∨ (t.pc = s.pc + 2#16 ∧ i.rowNumber ∈ [5, 6, 7, 19, 24, 25]) := by
  cases h with
  | skip hi ha => exact ha.imp id fun ha => ⟨ha, hi⟩
  | jump hi =>
    obtain ⟨nnn, rfl⟩ | ⟨nnn, rfl⟩ := hi
    · exact absurd rfl (hjp nnn)
    · exact absurd rfl (hjpV0 nnn)
  | call nnn => exact absurd rfl (hcall nnn)
  | ret => exact absurd rfl hret
  | _ => exact .inl rfl

end Effect

/-- Settles O48: the registers an instruction writes are those it may write, and the fetch writes none. -/
theorem registersWrittenOnlyByTheirInstructions : Obligations.RegistersWrittenOnlyByTheirInstructions :=
  fun _ _ _ _ h hi hr => (step_effect_of_decode h hi).2.getV_eq hr

/-- Settles O49, field by field. -/
theorem specialRegistersWrittenOnlyByTheirInstructions :
    Obligations.SpecialRegistersWrittenOnlyByTheirInstructions := by
  intro s t i h hi
  obtain ⟨-, heffect⟩ := step_effect_of_decode h hi
  exact ⟨heffect.i_eq, heffect.stack_eq, heffect.sp_eq, heffect.dt_eq, heffect.st_eq, heffect.key_eq⟩

/-- Settles O50, for memory and for the framebuffer. -/
theorem memoryAndScreenWrittenOnlyByTheirInstructions : Obligations.MemoryAndScreenWrittenOnlyByTheirInstructions := by
  intro s t i h hi
  obtain ⟨-, heffect⟩ := step_effect_of_decode h hi
  exact ⟨heffect.mem_eq, heffect.fb_eq⟩

/-- Settles O51: neither the advance of the fetch nor a skip on top of it wraps, since the fetch address is at most
0xFFE. -/
theorem programCounterFollows : Obligations.ProgramCounterFollows := by
  intro s t i h hi hret hjp hcall hjpV0
  obtain ⟨hpc, heffect⟩ := step_effect_of_decode h hi
  have hadv := State.advance_pc_toNat hpc
  obtain hsame | ⟨hskip, hrow⟩ := heffect.pc_cases hret hjp hcall hjpV0
  · exact .inl (by rw [hsame, hadv])
  · exact .inr ⟨by rw [hskip, toNat_add_two (by omega), hadv], hrow⟩

/-! ### The canonical form of memory -/

namespace Memory

/-- The first entry of a canonical memory stands no lower than where another with the same reads begins: below that
beginning the other reads as unlisted, which a listed byte never is. -/
theorem le_of_reads_eq {low low' a : Nat} {x : Byte} {m n : Memory} (hm : wfFrom low ((a, x) :: m) = true)
    (hn : wfFrom low' n = true) (h : ∀ c, read ((a, x) :: m) c = read n c) : low' ≤ a := by
  obtain ⟨-, -, hx, -⟩ := wfFrom_cons.1 hm
  by_contra ha
  have hread : read ((a, x) :: m) a = x := if_pos rfl
  exact hx (by rw [← hread, h a, read_below (by omega) hn])

/-- Canonical tails behind the same entry read alike when the whole memories do. -/
theorem reads_tail {a : Nat} {x y : Byte} {m n : Memory} (hm : wfFrom (a + 1) m = true) (hn : wfFrom (a + 1) n = true)
    (h : ∀ c, read ((a, x) :: m) c = read ((a, y) :: n) c) (c : Nat) : read m c = read n c := by
  by_cases hc : c = a
  · rw [read_below (by omega) hm, read_below (by omega) hn]
  · simpa only [read, if_neg hc] using h c

theorem eq_of_reads_eq {low low' : Nat} {m n : Memory} (hm : wfFrom low m = true) (hn : wfFrom low' n = true)
    (h : ∀ c, read m c = read n c) : m = n := by
  induction m generalizing low low' n with
  | nil =>
    cases n with
    | nil => rfl
    | cons entry n =>
      -- nothing listed is canonical from any address, so also from above the first entry
      have := le_of_reads_eq (low' := entry.1 + 1) hn rfl fun c => (h c).symm
      omega
  | cons entry m ih =>
    obtain ⟨a, x⟩ := entry
    cases n with
    | nil =>
      have := le_of_reads_eq (low' := a + 1) hm rfl h
      omega
    | cons entry' n =>
      obtain ⟨b, y⟩ := entry'
      obtain ⟨-, hma, hmx, hm'⟩ := wfFrom_cons.1 hm
      obtain ⟨-, hnb, hny, hn'⟩ := wfFrom_cons.1 hn
      have hba : b ≤ a := le_of_reads_eq hm (wfFrom_cons.2 ⟨le_rfl, hnb, hny, hn'⟩) h
      have hab : a ≤ b := le_of_reads_eq hn (wfFrom_cons.2 ⟨le_rfl, hma, hmx, hm'⟩) fun c => (h c).symm
      obtain rfl := Nat.le_antisymm hab hba
      have hxy : x = y := by simpa only [read, if_true] using h a
      rw [hxy, ih hm' hn' (reads_tail hm' hn' h)]

end Memory

/-- Settles O32, by induction on the two lists. -/
theorem equalReadsMeanEqualMemories : Obligations.EqualReadsMeanEqualMemories :=
  fun _ _ hm hn h => Memory.eq_of_reads_eq hm hn h

/-! ### The sound timer -/

/-- Outcomes that differ at most in the sound timer are next states that do, or the same error or refusal. -/
theorem sameButSound_cases {o p : Outcome} (h : sameButSound o p) :
    (∃ s b, o = .next s ∧ p = .next (s.setSt b)) ∨ (o = p ∧ ∀ s, o ≠ .next s) := by
  cases o <;> cases p
  case next.next s t =>
    have ht : t.setSt s.st = s := h
    exact .inl ⟨s, t.st, rfl, by rw [← ht]; rfl⟩
  case fault.fault => cases h; exact .inr ⟨rfl, fun _ => nofun⟩
  case refused.refused => cases h; exact .inr ⟨rfl, fun _ => nofun⟩
  all_goals exact h.elim

section
variable (s : State) (b : Byte)

theorem State.push_setSt (a : Word) : (s.setSt b).push a = (s.push a).map (·.setSt b) := by
  by_cases hsp : s.sp.val < 16
  · rw [State.push_eq a hsp, State.push_eq (s := s.setSt b) a hsp]; rfl
  · have hfull : s.sp.val = 16 := by omega
    rw [State.push_full a hfull, State.push_full (s := s.setSt b) a hfull]; rfl

theorem State.pop_setSt : (s.setSt b).pop = s.pop.map fun q => (q.1, q.2.setSt b) := by
  by_cases hsp : 0 < s.sp.val
  · rw [State.pop_eq hsp, State.pop_eq (s := s.setSt b) hsp]; rfl
  · have hempty : s.sp.val = 0 := by omega
    rw [State.pop_empty hempty, State.pop_empty (s := s.setSt b) hempty]; rfl

theorem State.loadRegsFrom_setSt (bs : List Byte) (k : Nat) :
    (s.setSt b).loadRegsFrom k bs = (s.loadRegsFrom k bs).setSt b := by
  induction bs generalizing s k with
  | nil => rfl
  | cons c bs ih =>
    unfold State.loadRegsFrom
    split
    · exact ih (s.setV _ c) _
    · rfl

/-- A condition that does not depend on the sound timer chooses the same branch in both runs. -/
theorem sameButSound_ite {c : Prop} [Decidable c] {o o' p p' : Outcome} (h : sameButSound o p)
    (h' : sameButSound o' p') : sameButSound (if c then o else o') (if c then p else p') := by
  split
  · exact h
  · exact h'

/-- The range check does not read the sound timer. -/
theorem sameButSound_withinMemory (base count : Nat) {o p : Outcome} (h : sameButSound o p) :
    sameButSound (withinMemory s base count o) (withinMemory (s.setSt b) base count p) :=
  sameButSound_ite rfl h

theorem sameButSound_skipIf (c : Bool) : sameButSound (.next (s.skipIf c)) (.next ((s.setSt b).skipIf c)) := by
  cases c <;> rfl

/-- The execute stage does not read the sound timer. -/
theorem sameButSound_exec (i : Instr) : sameButSound (exec i s) (exec i (s.setSt b)) := by
  cases i with
  | ret =>
    simp only [exec, execRet, State.pop_setSt]
    cases s.pop <;> rfl
  | callNnn nnn =>
    simp only [exec, execCallNnn, State.push_setSt, State.setSt_pc]
    cases s.push s.pc <;> rfl
  | seVxKk | sneVxKk | seVxVy | sneVxVy | skpVx | sknpVx => exact sameButSound_skipIf s b _
  | ldFVx x => exact sameButSound_ite rfl rfl
  | drwVxVyN | ldBVx | ldMemVx => exact sameButSound_withinMemory s b _ _ rfl
  | ldVxMem x =>
    refine sameButSound_withinMemory s b _ _ ?_
    rw [State.loadRegsFrom_setSt]
    rfl
  -- every other instruction answers a named update, whose values are read from other fields
  | _ => rfl

/-- Fetch and decode read `PC` and memory alone, so no STEP reads the sound timer. -/
theorem sameButSound_step : sameButSound (step s) (step (s.setSt b)) := by
  have hfetch : fetchWord (s.setSt b) = fetchWord s := rfl
  cases hw : fetchWord s with
  | none => rw [step_of_fetch_failed hw, step_of_fetch_failed (hfetch.trans hw)]; rfl
  | some w =>
    cases hi : decodeWord w with
    | none => rw [step_of_illegal hw hi, step_of_illegal (hfetch.trans hw) hi]; rfl
    | some i =>
      rw [step_of_decode hw hi, step_of_decode (hfetch.trans hw) hi]
      exact sameButSound_exec s.advance b i

/-- No command answers differently for another sound timer; TICK counts the timer down, and answers it alone. -/
theorem sameButSound_perform (c : Command) : sameButSound (perform c s) (perform c (s.setSt b)) := by
  cases c with
  | step => exact sameButSound_step s b
  | load image => exact sameButSound_ite rfl rfl
  | reset | tick | setKey => rfl

end

/-- Settles O53, by induction on the schedule: each command ends alike in both runs, and where it completes it leaves
states that again differ at most in the sound timer. -/
theorem soundTimerIsUnobservable : Obligations.SoundTimerIsUnobservable := by
  intro cs
  induction cs with
  | nil => exact fun s b => rfl
  | cons c cs ih =>
    intro s b
    unfold runSchedule
    obtain ⟨u, b', hu, hu'⟩ | ⟨hsame, hstop⟩ := sameButSound_cases (sameButSound_perform s b c)
    · rw [hu, hu']
      exact ih u b'
    · rw [← hsame]
      cases hc : perform c s with
      | next u => exact absurd hc (hstop u)
      | fault | refused => rfl

end Sys2Proof.Machine

/-! PROOFS. Family 20_memory: what the range store answers in range and which bytes it leaves (R184), and the fetch that
follows it (R62, R111). -/

namespace Sys2Proof.Machine

/-- In range, LD [I], Vx answers the state with `V[0]` to `V[x]` stored from `I` (R184). -/
theorem exec_ldMemVx_inside {s : State} {x : Reg} (hin : s.i.toNat + x.val ≤ 0xFFF) :
    exec (.ldMemVx x) s = .next (s.setMem (s.mem.writeBytes s.i.toNat (s.regsUpTo x))) :=
  withinMemory_inside (.inr (by rw [baseAddr]; omega))

/-- After a range store inside memory the byte `k` above `I` is `V[k]`, for every `k` up to `x` (R59, R184). -/
theorem Memory.read_writeBytes_regsUpTo {s : State} {x : Reg} (hm : s.mem.wf = true) (hin : s.i.toNat + x.val ≤ 0xFFF)
    {k : Nat} (hk : k ≤ x.val) :
    (s.mem.writeBytes s.i.toNat (s.regsUpTo x)).read (s.i.toNat + k) = s.getV ⟨k, by omega⟩ := by
  have hlen := s.length_regsUpTo x
  rw [Memory.read_writeBytes_inside _ _ k (by omega) hm (by omega), State.getElem_regsUpTo]

/-- Settles O31: the fetch reads the bytes at `I + k` and `I + k + 1` of the memory that the range store left. -/
theorem storeIsSeenByNextFetch : Obligations.StoreIsSeenByNextFetch := by
  intro s x k hk p hm hin hp
  refine ⟨_, exec_ldMemVx_inside hin, ?_⟩
  have hhigh := Memory.read_writeBytes_regsUpTo hm hin (show k ≤ x.val by omega)
  have hlow := Memory.read_writeBytes_regsUpTo hm hin hk
  rw [fetchWord_inside (by rw [State.setPc_pc]; omega)]
  simp only [State.setPc_pc, State.setPc_readByte, State.setMem_readByte, hp, Nat.add_assoc, hhigh, hlow]

end Sys2Proof.Machine

/-! PROOFS. Family 30_encoding: the decoder and the encoder undo each other (R80 to R85), and the decoder accepts
exactly the words of the opcode map (R84, R90). -/

namespace Sys2Proof

/-! ### Decoding what was encoded -/

/-- The decoder reads back every field the encoder wrote; only DRW needs its height to fit the 4 bits of `n`. -/
theorem decodeWord_encode {i : Instr} (hi : i.wellFormed = true) : decodeWord (encode i) = some i := by
  cases i with
  | cls | ret => rfl
  | drwVxVyN x y n =>
    have hn : n < 16 := of_decide_eq_true hi
    simp [encode, decodeWord, Nat.mod_eq_of_lt hn]
  | _ => simp [encode, decodeWord]

/-- Settles O2: the word decodes by its fields, and the byte decoder on the word's two bytes is the word decoder. -/
theorem decodeOfEncodeIsIdentity : Obligations.DecodeOfEncodeIsIdentity := by
  intro i rest hi
  have hword := decodeWord_encode hi
  refine ⟨hword, ?_⟩
  rw [encodeBytes, List.cons_append, List.cons_append, List.nil_append, decode_bytes, hword]

/-! ### Encoding what was decoded: a word whose opcodes are known is the format over its other fields -/

section

variable {w : Word} {op : BitVec 4}

theorem formatA_of_opcode (hop : (opField w).toNat = op.toNat) : formatA op (nnnField w) = w := by
  rw [← BitVec.eq_of_toNat_eq hop, ← word_eq_formatA]

theorem formatRI_of_opcode (hop : (opField w).toNat = op.toNat) : formatRI op (xField w) (kkField w) = w := by
  rw [← BitVec.eq_of_toNat_eq hop, ← word_eq_formatRI]

theorem formatRRN_of_opcode (hop : (opField w).toNat = op.toNat) :
    formatRRN op (xField w) (yField w) (nField w) = w := by
  rw [← BitVec.eq_of_toNat_eq hop, ← word_eq_formatRRN]

theorem formatRR_of_opcodes {n : BitVec 4} (hop : (opField w).toNat = op.toNat) (hn : (nField w).toNat = n.toNat) :
    formatRRN op (xField w) (yField w) n = w := by
  rw [← BitVec.eq_of_toNat_eq hn, formatRRN_of_opcode hop]

theorem formatR_of_opcodes {kk : Byte} (hop : (opField w).toNat = op.toNat) (hkk : (kkField w).toNat = kk.toNat) :
    formatRI op (xField w) kk = w := by
  rw [← BitVec.eq_of_toNat_eq hkk, formatRI_of_opcode hop]

end

/-- One case for every answer of the decoder, gathered by the format of the instruction (R82). -/
theorem encode_of_decodeWord {w : Word} {i : Instr} : decodeWord w = some i → encode i = w ∧ i.wellFormed = true := by
  fun_cases decodeWord w <;> intro h <;> cases h
  -- format Z: CLS, RET
  case case1 hw | case2 hw => exact ⟨hw.symm, rfl⟩
  -- format A: JP, CALL, LD I, JP V0
  case case4 hop | case5 hop | case24 hop | case25 hop => exact ⟨formatA_of_opcode hop, rfl⟩
  -- format RI: SE, SNE, LD, ADD with an immediate, RND
  case case6 hop | case7 hop | case10 hop | case11 hop | case26 hop => exact ⟨formatRI_of_opcode hop, rfl⟩
  -- format RR: SE Vx, Vy and SNE Vx, Vy, then major opcode 8
  case case8 hop hn | case22 hop hn => exact ⟨formatRR_of_opcodes hop (congrArg _ hn), rfl⟩
  case case12 hop hn | case13 hop hn | case14 hop hn | case15 hop hn | case16 hop hn | case17 hop hn | case18 hop hn
    | case19 hop hn | case20 hop hn => exact ⟨formatRR_of_opcodes hop hn, rfl⟩
  -- format RRN: DRW
  case case27 hop =>
    refine ⟨?_, decide_eq_true (nField w).isLt⟩
    rw [encode, BitVec.ofNat_toNat, BitVec.setWidth_eq, formatRRN_of_opcode hop]
  -- format R: major opcodes E and F
  case case28 hop hkk | case29 hop hkk | case31 hop hkk | case32 hop hkk | case33 hop hkk | case34 hop hkk
    | case35 hop hkk | case36 hop hkk | case37 hop hkk | case38 hop hkk => exact ⟨formatR_of_opcodes hop hkk, rfl⟩

/-- Settles O3: a word that decodes is the join of its fields, and the height that DRW reads is a 4-bit field. -/
theorem encodeOfDecodeIsIdentity : Obligations.EncodeOfDecodeIsIdentity :=
  fun _ _ => encode_of_decodeWord

/-! ### The opcode map -/

open Laws.Encoding in
/-- The word of every well-formed instruction lies in the row of R85 with the instruction's number. -/
theorem encode_in_own_row : ∀ i : Instr, Statement i
  | .cls => cls | .ret => ret | .jpNnn _ => jpNnn _ | .callNnn _ => callNnn _ | .seVxKk _ _ => seVxKk _ _
  | .sneVxKk _ _ => sneVxKk _ _ | .seVxVy _ _ => seVxVy _ _ | .ldVxKk _ _ => ldVxKk _ _ | .addVxKk _ _ => addVxKk _ _
  | .ldVxVy _ _ => ldVxVy _ _ | .orVxVy _ _ => orVxVy _ _ | .andVxVy _ _ => andVxVy _ _ | .xorVxVy _ _ => xorVxVy _ _
  | .addVxVy _ _ => addVxVy _ _ | .subVxVy _ _ => subVxVy _ _ | .shrVxVy _ _ => shrVxVy _ _
  | .subnVxVy _ _ => subnVxVy _ _ | .shlVxVy _ _ => shlVxVy _ _ | .sneVxVy _ _ => sneVxVy _ _
  | .ldINnn _ => ldINnn _ | .jpV0Nnn _ => jpV0Nnn _ | .rndVxKk _ _ => rndVxKk _ _ | .drwVxVyN _ _ _ => drwVxVyN _ _ _
  | .skpVx _ => skpVx _ | .sknpVx _ => sknpVx _ | .ldVxDt _ => ldVxDt _ | .ldDtVx _ => ldDtVx _ | .ldStVx _ => ldStVx _
  | .addIVx _ => addIVx _ | .ldFVx _ => ldFVx _ | .ldBVx _ => ldBVx _
  | .ldMemVx _ => ldMemVx _ | .ldVxMem _ => ldVxMem _

/-- A word that decodes is selected by the row of its instruction. -/
theorem row_of_decodeWord {w : Word} {i : Instr} (h : decodeWord w = some i) :
    ∃ r ∈ opcodeMap, r.number = i.rowNumber ∧ r.selects w = true := by
  obtain ⟨rfl, hi⟩ := encode_of_decodeWord h
  exact encode_in_own_row i hi

/-- Whether a word decodes depends on its major opcode and on the fields R84 names for that opcode: the whole word
for 0, `n` for 5, 8 and 9, `kk` for E and F. -/
theorem decodeWord_isSome_congr {v w : Word} (hop : opField v = opField w) (hz : (opField v).toNat = 0x0 → v = w)
    (hn : (opField v).toNat ∈ [0x5, 0x8, 0x9] → nField v = nField w)
    (hkk : (opField v).toNat ∈ [0xE, 0xF] → kkField v = kkField w) : (decodeWord v).isSome = (decodeWord w).isSome := by
  unfold decodeWord
  rw [← hop]
  split
  case h_1 h => rw [hz h]
  case h_6 h | h_9 h | h_10 h =>
    rw [← hn (by simp [h])]
    split <;> rfl
  case h_15 h | h_16 h =>
    rw [← hkk (by simp [h])]
    split <;> rfl
  all_goals rfl

/-- Every row of R85 fixes the fields that R84 names for its major opcode. -/
theorem opcodeMap_masks : ∀ r ∈ opcodeMap, opField r.mask = 0xF#4 ∧
    ((opField r.pattern).toNat = 0x0 → r.mask = 0xFFFF#16) ∧
    ((opField r.pattern).toNat ∈ [0x5, 0x8, 0x9] → nField r.mask = 0xF#4) ∧
    ((opField r.pattern).toNat ∈ [0xE, 0xF] → kkField r.mask = 0xFF#8) := by decide

theorem opcodeMap_patterns_decode : ∀ r ∈ opcodeMap, (decodeWord r.pattern).isSome = true := by decide

/-- No two rows of R85 agree on the bits that both fix. -/
theorem opcodeMap_disjoint : ∀ r ∈ opcodeMap, ∀ q ∈ opcodeMap, r.pattern &&& q.mask = q.pattern &&& r.mask → r = q := by
  decide

namespace OpcodeRow

variable {r q : OpcodeRow} {w : Word}

theorem selects_iff : r.selects w = true ↔ w &&& r.mask = r.pattern := beq_iff_eq

/-- A selected word has the pattern's value in every field that the mask covers. -/
theorem field_of_selects (h : r.selects w = true) {start len : Nat}
    (hmask : r.mask.extractLsb' start len = BitVec.allOnes len) :
    r.pattern.extractLsb' start len = w.extractLsb' start len := by
  rw [← selects_iff.mp h, BitVec.extractLsb'_and, hmask, BitVec.and_allOnes]

/-- A selected word agrees with the row's pattern in all that decides whether it decodes, and every pattern decodes. -/
theorem decodes_of_selects (hr : r ∈ opcodeMap) (h : r.selects w = true) : (decodeWord w).isSome = true := by
  obtain ⟨hop, hz, hn, hkk⟩ := opcodeMap_masks r hr
  have hwhole : (opField r.pattern).toNat = 0x0 → r.pattern = w := fun h0 => by
    rw [← selects_iff.mp h, hz h0]
    exact BitVec.and_allOnes
  rw [← decodeWord_isSome_congr (field_of_selects h hop) hwhole (fun h5 => field_of_selects h (hn h5))
    (fun hE => field_of_selects h (hkk hE))]
  exact opcodeMap_patterns_decode r hr

/-- Rows that select one word agree on the bits both fix: there the word has the value of either pattern. -/
theorem eq_of_selects (hr : r ∈ opcodeMap) (hq : q ∈ opcodeMap) (hrw : r.selects w = true) (hqw : q.selects w = true) :
    r = q := by
  apply opcodeMap_disjoint r hr q hq
  rw [← selects_iff.mp hrw, ← selects_iff.mp hqw, BitVec.and_assoc, BitVec.and_assoc, BitVec.and_comm r.mask]

end OpcodeRow

/-- A word decodes to nothing exactly when no row of R85 selects it (R90). -/
theorem decodeWord_eq_none_iff (w : Word) : decodeWord w = none ↔ ∀ r ∈ opcodeMap, r.selects w = false := by
  constructor
  · intro hnone r hr
    by_contra hsel
    have hsome := OpcodeRow.decodes_of_selects hr (eq_true_of_ne_false hsel)
    rw [hnone] at hsome
    cases hsome
  · intro hno
    by_contra hsome
    obtain ⟨i, hi⟩ := Option.ne_none_iff_exists'.mp hsome
    obtain ⟨r, hr, _, hsel⟩ := row_of_decodeWord hi
    exact absurd hsel (by simp [hno r hr])

/-- Settles O4: a decoded word is selected by its instruction's row, a selected word decodes, rows are disjoint. -/
theorem decoderIsTheOpcodeMap : Obligations.DecoderIsTheOpcodeMap :=
  fun w => ⟨fun _ => row_of_decodeWord, decodeWord_eq_none_iff w, fun _ hr _ hq => OpcodeRow.eq_of_selects hr hq⟩

/-- Settles O1: ten closed words, each decoded by evaluation. -/
theorem specWordsDecode : Obligations.SpecWordsDecode := by
  unfold Obligations.SpecWordsDecode
  decide

end Sys2Proof

/-! PROOFS. Family 40_step_cycle: STEP as fetch, decode and execute (R110 to R114), and the redraw signal of its result
record (R117, R118). -/

namespace Sys2Proof.Machine

/-! ### The decoded instruction is executed -/

theorem fetchWord_eq_wordAtPc {s : State} (h : s.pc.toNat ≤ 0xFFE) : fetchWord s = some s.wordAtPc :=
  fetchWord_inside h

/-- Of two bytes the byte decoder answers an instruction exactly when the word decoder does (R55, R84). -/
theorem decode_pair_eq_instr_iff {hi lo : Byte} {i : Instr} :
    decode [hi, lo] = .instr i [] ↔ decodeWord (wordOfBytes hi lo) = some i := by
  cases h : decodeWord (wordOfBytes hi lo) <;> simp [decode, h]

/-- Settles O5: the bytes at `PC` are those of the word that the fetch reads, and the advance is a write of `PC`. -/
theorem stepRunsDecodedInstruction : Obligations.StepRunsDecodedInstruction := by
  intro s i hpc hi
  have hw : decodeWord s.wordAtPc = some i := decode_pair_eq_instr_iff.mp hi
  exact ⟨step_of_decode (fetchWord_eq_wordAtPc hpc) hw, s.advance_pc, onlyPc_setPc s _⟩

/-! ### No instruction is refused -/

/-- Every instruction has a meaning: the execute stage answers a next state or one of the named errors (R114, R116). -/
theorem exec_not_refused {i : Instr} {s : State} {r : Refusal} : exec i s ≠ .refused r := by
  cases i with
  | ret =>
    simp only [exec, execRet]
    split <;> nofun
  | callNnn nnn =>
    simp only [exec, execCallNnn]
    split <;> nofun
  | ldFVx x =>
    simp only [exec, execLdFVx]
    split <;> nofun
  | drwVxVyN | ldBVx | ldMemVx | ldVxMem => exact withinMemory_not_refused
  -- every other instruction always answers a next state
  | _ => nofun

theorem step_not_refused {s : State} {r : Refusal} : step s ≠ .refused r := by
  cases hw : fetchWord s with
  | none => rw [step_of_fetch_failed hw]; nofun
  | some w =>
    cases hi : decodeWord w with
    | none => rw [step_of_illegal hw hi]; nofun
    | some i => rw [step_of_decode hw hi]; exact exec_not_refused

/-! ### The redraw signal -/

/-- A STEP reports no error exactly when it answers a next state. -/
theorem errorOf_step_isNone_iff {s : State} : (errorOf (step s)).isNone = true ↔ ∃ t, step s = .next t := by
  cases h : step s with
  | next t => exact ⟨fun _ => ⟨t, rfl⟩, fun _ => rfl⟩
  | fault e => simp [errorOf]
  | refused r => exact absurd h step_not_refused

/-- The rows 1 and 23 of R85 are CLS and DRW. -/
theorem signalsRedraw_iff {i : Instr} : signalsRedraw i = true ↔ i = .cls ∨ ∃ x y n, i = .drwVxVyN x y n := by
  cases i <;> simp [signalsRedraw, Instr.rowNumber]

/-- The record signals a redraw exactly when STEP answered a next state and the decoded instruction signals one. -/
theorem stepRecord_redraw_iff {s : State} : (stepRecord s).redraw = true ↔
    (∃ t, step s = .next t) ∧ ∃ i, (fetchWord s).bind decodeWord = some i ∧ signalsRedraw i = true := by
  rw [← errorOf_step_isNone_iff, stepRecord, Bool.and_eq_true]
  cases (fetchWord s).bind decodeWord <;> simp

/-- Settles O9: inside memory the word decoded is the word at `PC`; above, the fetch fails and there is none. -/
theorem redrawIsClsOrDrwThatSucceeded : Obligations.RedrawIsClsOrDrwThatSucceeded := by
  intro s
  rw [stepRecord_redraw_iff]
  by_cases hpc : s.pc.toNat ≤ 0xFFE
  · rw [fetchWord_eq_wordAtPc hpc, Option.bind_some]
    simp only [hpc, true_and, signalsRedraw_iff]
    cases decodeWord s.wordAtPc <;> simp
  · rw [fetchWord_outside (Nat.lt_of_not_le hpc)]
    simp [hpc]

end Sys2Proof.Machine

/-! PROOFS. Family 41_control_flow: what the jumps, CALL, RET and the four register skips answer (R130 to R137), and the
STEP whose instruction fails (R222, R223, R227). -/

namespace Sys2Proof.Machine

/-! ### What CALL and RET answer -/

section
variable {s : State}

/-- With room on the stack CALL pushes `PC` and goes to its address (R132). -/
theorem exec_callNnn_room (nnn : BitVec 12) (h : s.sp.val < 16) :
    exec (.callNnn nnn) s = .next
      { s with stack := s.stack.set s.sp.val s.pc, sp := ⟨s.sp.val + 1, by omega⟩, pc := zextAddr nnn } := by
  simp only [exec, execCallNnn, State.push_eq s.pc h, State.setPc]

/-- With a full stack CALL fails (R222). -/
theorem exec_callNnn_full (nnn : BitVec 12) (h : s.sp.val = 16) :
    exec (.callNnn nnn) s = .fault (.errStackOverflow s.fetchAddr) := by
  simp only [exec, execCallNnn, State.push_full s.pc h, raise]

/-- With a call active RET goes to the top entry and gives it up without erasing it (R27, R130). -/
theorem exec_ret_active (h : 0 < s.sp.val) :
    exec .ret s = .next { s with sp := ⟨s.sp.val - 1, by omega⟩, pc := s.stack[s.sp.val - 1]'(by omega) } := by
  simp only [exec, execRet, State.pop_eq h, State.setPc]

/-- With an empty stack RET fails (R223). -/
theorem exec_ret_empty (h : s.sp.val = 0) : exec .ret s = .fault (.errStackUnderflow s.fetchAddr) := by
  simp only [exec, execRet, State.pop_empty h, raise]

theorem onlyPcAndStack_update (stack : Vector Word 16) (sp : Fin 17) (pc : Word) :
    onlyPcAndStack s { s with stack := stack, sp := sp, pc := pc } :=
  ⟨fun _ _ => rfl, rfl, ⟨rfl, rfl⟩, fun _ _ => rfl, ⟨rfl, rfl, rfl⟩, fun _ => rfl⟩

/-! ### A STEP whose instruction fails -/

/-- After the advance the fetch address is where `PC` was (R25, R112). -/
@[simp] theorem State.advance_fetchAddr : s.advance.fetchAddr = s.pc :=
  BitVec.add_sub_cancel s.pc 2#16

/-- An error of the execute stage is the STEP's error, and leaves `PC` at the fetch address plus 2 and nothing else
changed (R227). -/
theorem step_of_exec_fault {i : Instr} {e : Fault} (hpc : s.pc.toNat ≤ 0xFFE) (hi : decodeWord s.wordAtPc = some i)
    (he : exec i s.advance = .fault e) : step s = .fault e ∧ afterStep s = { s with pc := s.pc + 2#16 } := by
  have hstep : step s = .fault e := (step_of_decode (fetchWord_eq_wordAtPc hpc) hi).trans he
  refine ⟨hstep, ?_⟩
  simp only [afterStep, hstep, State.afterError]
  exact if_neg (by omega)

end

/-! ### Calls and returns -/

/-- Settles O21: the RET finds on top the entry that the CALL pushed, and gives back the place it took. -/
theorem callThenReturnRestores : Obligations.CallThenReturnRestores := by
  intro s nnn p hsp
  refine ⟨_, _, exec_callNnn_room nnn hsp, exec_ret_active (Nat.succ_pos s.sp.val), ?_, rfl, onlyPcAndStack_update ..⟩
  exact Vector.getElem_set_self _

/-- Settles O19: the push writes the entry at the old `SP` alone, and on a full stack the instruction fails before any
write. -/
theorem callPushesReturnAddress : Obligations.CallPushesReturnAddress := by
  refine ⟨fun s nnn => ⟨fun hsp => ?_, exec_callNnn_full nnn⟩, fun s nnn hpc hi hsp => ?_⟩
  · refine ⟨_, exec_callNnn_room nnn hsp, ?_, fun k hk => ?_, rfl, toNat_zextAddr nnn, onlyPcAndStack_update ..⟩
    · exact Vector.getElem?_set_self hsp
    · exact Vector.getElem?_set_ne hsp hk.symm
  · have hfail := exec_callNnn_full (s := s.advance) nnn hsp
    rw [State.advance_fetchAddr] at hfail
    exact step_of_exec_fault hpc hi hfail

/-- Settles O20: the popped entry is one of the stack's, so that the invariant bounds it, and on an empty stack the
instruction fails before any write. -/
theorem returnPopsReturnAddress : Obligations.ReturnPopsReturnAddress := by
  refine ⟨fun s => ⟨fun hsp => ?_, exec_ret_empty⟩, fun s hpc hi hsp => ?_⟩
  · have hentry : s.sp.val - 1 < 16 := by omega
    exact ⟨_, exec_ret_active hsp, Vector.getElem?_eq_getElem hentry, rfl, rfl, onlyPcAndStack_update ..,
      fun hs => hs.stackBound ⟨s.sp.val - 1, hentry⟩⟩
  · have hfail := exec_ret_empty (s := s.advance) hsp
    rw [State.advance_fetchAddr] at hfail
    exact step_of_exec_fault hpc hi hfail

/-! ### Jumps -/

/-- Settles O17: zero extension keeps the value of the address. -/
theorem jumpIsAbsolute : Obligations.JumpIsAbsolute :=
  fun s nnn => ⟨_, rfl, toNat_zextAddr nnn, onlyPc_setPc s _⟩

/-- Settles O18: the sum is at most 0x10FE, so that `PC` holds it unreduced. -/
theorem jumpWithOffset : Obligations.JumpWithOffset :=
  fun s nnn => ⟨_, rfl, toNat_offsetTarget nnn s, onlyPc_setPc s _⟩

/-! ### Skips -/

/-- A skip under a condition that decides `p` adds 2 to `PC`, modulo 65536, exactly when `p` holds (R12, R138). -/
theorem State.skipIf_pc_toNat {s : State} {c : Bool} {p : Prop} [Decidable p] (hc : c = true ↔ p) :
    (s.skipIf c).pc.toNat = if p then (s.pc.toNat + 2) % 65536 else s.pc.toNat := by
  simp [State.skipIf_pc, apply_ite BitVec.toNat, hc]

/-- Settles O22: bytes are equal exactly when their values are. -/
theorem registerSkips : Obligations.RegisterSkips := by
  intro s x y kk
  have heq (a b : Byte) : decide (a = b) = true ↔ a.toNat = b.toNat := decide_eq_true_iff.trans BitVec.toNat_inj.symm
  have hne (a b : Byte) : decide (a ≠ b) = true ↔ a.toNat ≠ b.toNat :=
    decide_eq_true_iff.trans (not_congr BitVec.toNat_inj.symm)
  exact ⟨⟨_, rfl, State.skipIf_pc_toNat (heq _ _), onlyPc_skipIf s _⟩,
    ⟨_, rfl, State.skipIf_pc_toNat (hne _ _), onlyPc_skipIf s _⟩,
    ⟨_, rfl, State.skipIf_pc_toNat (heq _ _), onlyPc_skipIf s _⟩,
    ⟨_, rfl, State.skipIf_pc_toNat (hne _ _), onlyPc_skipIf s _⟩⟩

end Sys2Proof.Machine

/-! PROOFS. Family 42_alu: what the load, arithmetic, logic, shift and random instructions answer (R151 to R162). -/

namespace Sys2Proof.Machine

/-! ### One register written -/

/-- Settles O11: one register is written, with `kk` or with the sum modulo 256. -/
theorem immediateLoadAndAdd : Obligations.ImmediateLoadAndAdd :=
  fun s x kk => ⟨⟨_, rfl, s.setV_getV_same x kk, onlyRegs_setV s x _⟩,
    ⟨_, rfl, by rw [State.setV_getV_same, toNat_sumByte], onlyRegs_setV s x _⟩⟩

/-- Settles O12: one register is written, and the logic operations of bytes act bit by bit. -/
theorem moveAndLogic : Obligations.MoveAndLogic :=
  fun s x y => ⟨⟨_, rfl, s.setV_getV_same x _, onlyRegs_setV s x _⟩,
    ⟨_, rfl, fun _ _ => by rw [State.setV_getV_same, BitVec.getLsbD_or], onlyRegs_setV s x _⟩,
    ⟨_, rfl, fun _ _ => by rw [State.setV_getV_same, BitVec.getLsbD_and], onlyRegs_setV s x _⟩,
    ⟨_, rfl, fun _ _ => by rw [State.setV_getV_same, BitVec.getLsbD_xor], onlyRegs_setV s x _⟩⟩

/-- Settles O16: masking the supplied byte clears every bit outside `kk` and never exceeds it. Apart from the count of
bytes taken, RND is a write of one register. -/
theorem randomIsMaskedDraw : Obligations.RandomIsMaskedDraw := by
  intro s x kk
  obtain ⟨hregs, hi, hpc, hstack, htimers, hscreen, ⟨hkey, hconfig, hdraws⟩, hmem⟩ :=
    onlyRegs_setV s.countDraw x (Config.drawByte s.draws &&& kk)
  refine ⟨_, rfl, State.setV_getV_same _ x _, fun k _ hk => ?_, ?_, hdraws, hregs, hi, hpc, hstack, htimers, hscreen,
    hkey, hconfig, hmem⟩
  · rw [State.setV_getV_same, BitVec.getLsbD_and, hk, Bool.and_false]
  · rw [State.setV_getV_same, BitVec.toNat_and]
    exact Nat.and_le_right

/-! ### A flag and a result written -/

@[simp] theorem State.setFlagThenResult_getV_result (s : State) (x : Reg) (flag result : Byte) :
    (s.setFlagThenResult x flag result).getV x = result := by
  rw [State.setFlagThenResult_getV, if_pos rfl]

/-- Unless the destination is `VF`, the flag stays (R115). -/
theorem State.setFlagThenResult_getV_flag (s : State) {x : Reg} (flag result : Byte) (hx : x ≠ VF) :
    (s.setFlagThenResult x flag result).getV VF = flag := by
  rw [State.setFlagThenResult_getV, if_neg hx.symm, if_pos rfl]

theorem flagByte_decide (p : Prop) [Decidable p] : flagByte (decide p) = if p then 1 else 0 := by
  by_cases hp : p <;> simp [flagByte, hp]

/-- Settles O13: flag and sum are computed from the old operands, and the sum is written last. -/
theorem addSetsCarry : Obligations.AddSetsCarry := by
  intro s x y
  refine ⟨_, rfl, ?_, fun hx => ?_, onlyRegs_setFlagThenResult s x _ _⟩
  · rw [State.setFlagThenResult_getV_result, toNat_sumByte]
  · rw [State.setFlagThenResult_getV_flag s _ _ hx]
    exact flagByte_decide _

/-- Flag and difference as SUB and SUBN write them, for either order of the operands (R158, R160). -/
theorem setFlagThenResult_noBorrow_diffByte (s : State) (x : Reg) (a b : Byte) :
    (((s.setFlagThenResult x (flagByte (noBorrow a b)) (diffByte a b)).getV x).toNat : Int) =
      (a.toNat - b.toNat : Int) % 256 ∧
    (x ≠ VF → (s.setFlagThenResult x (flagByte (noBorrow a b)) (diffByte a b)).getV VF =
      if b.toNat ≤ a.toNat then 1 else 0) := by
  refine ⟨?_, fun hx => ?_⟩
  · rw [State.setFlagThenResult_getV_result, toNat_diffByte]
  · rw [State.setFlagThenResult_getV_flag s _ _ hx]
    exact flagByte_decide _

/-- Settles O14: SUB takes its operands in the order `Vx`, `Vy` and SUBN in the other. -/
theorem subtractSetsNoBorrow : Obligations.SubtractSetsNoBorrow := by
  intro s x y
  obtain ⟨hsub, hsubFlag⟩ := setFlagThenResult_noBorrow_diffByte s x (s.getV x) (s.getV y)
  obtain ⟨hsubn, hsubnFlag⟩ := setFlagThenResult_noBorrow_diffByte s x (s.getV y) (s.getV x)
  exact ⟨⟨_, rfl, hsub, hsubFlag, onlyRegs_setFlagThenResult s x _ _⟩,
    ⟨_, rfl, hsubn, hsubnFlag, onlyRegs_setFlagThenResult s x _ _⟩⟩

/-- Settles O15: both shifts read the source that the strap selects, before any write. -/
theorem shiftsByOne : Obligations.ShiftsByOne := by
  rintro s x y _ rfl
  obtain ⟨hright, hrightOut⟩ := shift_right_toNat (shiftSource x y s)
  obtain ⟨hleft, hleftOut⟩ := shift_left_toNat (shiftSource x y s)
  refine ⟨⟨_, rfl, ?_, fun hx => ?_, onlyRegs_setFlagThenResult s x _ _⟩,
    ⟨_, rfl, ?_, fun hx => ?_, onlyRegs_setFlagThenResult s x _ _⟩⟩
  · rw [State.setFlagThenResult_getV_result]; exact hright
  · rw [State.setFlagThenResult_getV_flag s _ _ hx]; exact hrightOut
  · rw [State.setFlagThenResult_getV_result]; exact hleft
  · rw [State.setFlagThenResult_getV_flag s _ _ hx]; exact hleftOut

end Sys2Proof.Machine

/-! PROOFS. Family 43_index_memory: the index register (R180 to R182), and the digit store, the range store and the
range load, each inside memory and where its range check fails (R56, R183 to R185). -/

namespace Sys2Proof.Machine

/-! ### The index register written -/

/-- Settles O24: zero extension keeps the value of the address. -/
theorem loadIndex : Obligations.LoadIndex :=
  fun s nnn => ⟨_, rfl, toNat_zextAddr nnn, onlyIndex_setI s _⟩

/-- Settles O25: the sum is reduced as `I` takes it. -/
theorem addToIndex : Obligations.AddToIndex :=
  fun s _ => ⟨_, rfl, BitVec.toNat_ofNat _ 16, onlyIndex_setI s _⟩

/-- Settles O26: five times a digit fits `I`, and the test for a digit stands before the write. -/
theorem glyphAddress : Obligations.GlyphAddress :=
  fun s x => ⟨fun hdigit => ⟨_, if_neg (Nat.not_lt.mpr hdigit), toNat_glyphAddr (s.getV x), onlyIndex_setI s _⟩,
    fun hlarge => if_pos hlarge⟩

/-! ### Accesses from `I`: the range check fails, or the instruction answers -/

section
variable {s : State} {x : Reg}

/-- An access from `I` to `I + last` fails when its last byte lies above 0xFFF, whatever it guards (R56, R220). -/
theorem withinMemory_baseAddr_outside {last : Nat} {k : Outcome} (h : 0xFFF < s.i.toNat + last) :
    withinMemory s (baseAddr s) (last + 1) k =
      .fault (.errAddressRange (s.pc - 2#16) (max s.i.toNat 0x1000) (s.i.toNat + last)) :=
  withinMemory_outside (Nat.succ_pos last) (by rw [baseAddr]; omega)

/-- In range, LD B answers the state with the three digits stored from `I` (R183). -/
theorem exec_ldBVx_inside (hin : s.i.toNat + 2 ≤ 0xFFF) :
    exec (.ldBVx x) s = .next (s.setMem (s.mem.writeBytes s.i.toNat (bcdDigits (s.getV x)))) :=
  withinMemory_inside (.inr (by rw [baseAddr]; omega))

/-- In range, LD Vx, [I] answers the state with `V[0]` to `V[x]` loaded from `I` (R185). -/
theorem exec_ldVxMem_inside (hin : s.i.toNat + x.val ≤ 0xFFF) :
    exec (.ldVxMem x) s = .next (s.loadRegsFrom 0 (s.mem.readBytes s.i.toNat (x.val + 1))) :=
  withinMemory_inside (.inr (by rw [baseAddr]; omega))

end

/-! ### Stores -/

/-- The digits of a byte, as numbers: none of them needs reducing to fit a byte (R183). -/
theorem toNat_getElem_bcdDigits (b : Byte) :
    (bcdDigits b)[0].toNat = b.toNat / 100 ∧ (bcdDigits b)[1].toNat = b.toNat / 10 % 10 ∧
      (bcdDigits b)[2].toNat = b.toNat % 10 := by
  have hb := b.isLt
  simp only [bcdDigits, List.getElem_cons_zero, List.getElem_cons_succ, BitVec.toNat_ofNat]
  omega

/-- Settles O27: the byte stored `k` above `I` is digit `k`. -/
theorem storeDecimalDigits : Obligations.StoreDecimalDigits := by
  intro s x hm
  refine ⟨fun hin => ?_, withinMemory_baseAddr_outside⟩
  obtain ⟨hhundreds, htens, hunits⟩ := toNat_getElem_bcdDigits (s.getV x)
  have hfits : s.i.toNat + (bcdDigits (s.getV x)).length ≤ 4096 := by rw [length_bcdDigits]; omega
  have hread (k : Nat) (hk : k < 3) :=
    congrArg BitVec.toNat (Memory.read_writeBytes_inside s.i.toNat (bcdDigits (s.getV x)) k hk hm hfits)
  exact ⟨_, exec_ldBVx_inside hin, (hread 0 (by decide)).trans hhundreds, (hread 1 (by decide)).trans htens,
    (hread 2 (by decide)).trans hunits, onlyMemory_writeBytes s _ _, Memory.wf_writeBytes _ hm hfits⟩

/-- Settles O28: the bytes stored are `V[0]` to `V[x]`, `x + 1` of them. -/
theorem storeRegisterRange : Obligations.StoreRegisterRange := by
  intro s x hm
  refine ⟨fun hin => ?_, withinMemory_baseAddr_outside⟩
  have hlen := s.length_regsUpTo x
  refine ⟨_, exec_ldMemVx_inside hin, fun k hk => Memory.read_writeBytes_regsUpTo hm hin hk, ?_,
    Memory.wf_writeBytes _ hm (by omega)⟩
  rw [← hlen]
  exact onlyMemory_writeBytes s _ _

/-! ### The range load -/

/-- After a load of `count` bytes into the registers from `V[0]`, register `k` holds byte `k` if there is one, and its
old value otherwise (R185). -/
theorem State.getV_loadRegsFrom_readBytes (s : State) (base count : Nat) (k : Reg) :
    (s.loadRegsFrom 0 (s.mem.readBytes base count)).getV k =
      if k.val < count then s.readByte (base + k.val) else s.getV k := by
  have hlen := Memory.length_readBytes s.mem base count
  rw [State.loadRegsFrom_getV, if_pos (Nat.zero_le _), Nat.sub_zero]
  split
  · rw [List.getD_eq_getElem _ _ (by omega), Memory.getElem_readBytes]
    rfl
  · exact List.getD_eq_default _ _ (by omega)

/-- Settles O29: the load writes V registers alone, those up to `x`. -/
theorem loadRegisterRange : Obligations.LoadRegisterRange := by
  intro s x
  refine ⟨fun hin => ?_, withinMemory_baseAddr_outside⟩
  have hgetV := s.getV_loadRegsFrom_readBytes s.i.toNat (x.val + 1)
  refine ⟨_, exec_ldVxMem_inside hin, fun k hk => ?_, fun k hk => ?_, ?_⟩
  · rw [hgetV, if_pos (Nat.lt_succ_of_le hk)]
  · rw [hgetV, if_neg (Nat.not_lt.mpr hk)]
  · rw [State.loadRegsFrom_other]
    exact ⟨rfl, rfl, ⟨rfl, rfl⟩, ⟨rfl, rfl⟩, fun _ _ => rfl, ⟨rfl, rfl, rfl⟩, fun _ => rfl⟩

/-- Settles O30: the store leaves `I` alone, so that the load reads the bytes it stored. -/
theorem rangeStoreThenLoadRoundTrips : Obligations.RangeStoreThenLoadRoundTrips := by
  intro s x regs p hm hin
  obtain ⟨t, hstore, hstored, ⟨-, hti, -⟩, -⟩ := (storeRegisterRange s x hm).1 hin
  obtain ⟨u, hload, hloaded, hkept, hui, -⟩ :=
    (loadRegisterRange { t with v := regs, pc := p } x).1 (by rw [hti]; exact hin)
  refine ⟨t, u, hstore, hload, fun k hk => ?_, hkept, hui.trans hti⟩
  calc u.getV k = t.readByte (t.i.toNat + k.val) := hloaded k hk
    _ = s.getV k := by rw [hti, hstored k hk]

end Sys2Proof.Machine

/-! PROOFS. Family 44_display: CLS (R201) and DRW (R202, R203). What a draw does is said once for the framebuffer, pixel
by pixel; the pixels it lands on are then those of `spritePixel`. -/

namespace Sys2Proof.Machine

/-! ### The screen cleared -/

/-- Nothing changed but the framebuffer. -/
theorem onlyScreenAndRegs_setFb (s : State) (f : FrameBuffer) : onlyScreenAndRegs [] s (s.setFb f) :=
  ⟨fun _ _ => rfl, rfl, rfl, ⟨rfl, rfl⟩, ⟨rfl, rfl⟩, ⟨rfl, rfl, rfl⟩, fun _ => rfl⟩

/-- Settles O33: CLS always answers, so that a STEP which fetches it always signals a redraw (R118). -/
theorem clearScreen : Obligations.ClearScreen := by
  refine ⟨fun s => ⟨_, rfl, FrameBuffer.pixel_clear, onlyScreenAndRegs_setFb s _⟩, fun s hpc hi => ?_⟩
  have hstep : step s = .next (s.advance.setFb FrameBuffer.clear) := step_of_decode (fetchWord_eq_wordAtPc hpc) hi
  exact (redrawIsClsOrDrwThatSucceeded s).mpr ⟨hpc, ⟨_, hstep⟩, .inl hi⟩

/-! ### The pixels that a draw lands on -/

/-- What the draw of R202 exclusive-ORs into a pixel: the sprite whose bytes stand from row `top` down, with what lies
past the bottom edge dropped. -/
def drawnBit (x0 top : Nat) (bytes : List Byte) (row col : Nat) : Bool :=
  decide (top ≤ row ∧ row < 32) && (spriteRow (bytes.getD (row - top) 0) x0).getMsbD col

section
variable {x0 top row col : Nat} {b : Byte} {bytes : List Byte}

@[simp] theorem drawnBit_nil : drawnBit x0 top [] row col = false := by
  simp [drawnBit, spriteRow]

theorem drawnBit_above (h : row < top) : drawnBit x0 top bytes row col = false := by
  simp [drawnBit, Nat.not_le_of_lt h]

theorem drawnBit_cons_top :
    drawnBit x0 top (b :: bytes) top col = (decide (top < 32) && (spriteRow b x0).getMsbD col) := by
  simp [drawnBit]

theorem drawnBit_cons_other (h : row ≠ top) :
    drawnBit x0 top (b :: bytes) row col = drawnBit x0 (top + 1) bytes row col := by
  obtain habove | hbelow := Nat.lt_or_gt_of_ne h
  · rw [drawnBit_above habove, drawnBit_above (by omega)]
  · have hsub : row - top = row - (top + 1) + 1 := by omega
    have hle : top ≤ row ↔ top + 1 ≤ row := by omega
    simp only [drawnBit, hsub, hle, List.getD_cons_succ]

/-- Only pixels inside the grid are set, and a draw lands on no others (R31, R202). -/
theorem FrameBuffer.pixel_inside {f : FrameBuffer} (h : f.pixel row col = true) : row < 32 ∧ col < 64 := by
  unfold FrameBuffer.pixel at h
  split at h
  · exact ⟨‹_›, BitVec.lt_of_getMsbD h⟩
  · cases h

end

/-- A row of pixels is not blank exactly when one of its pixels is set. -/
theorem ne_zero_iff_exists_getMsbD {w : Nat} {v : BitVec w} : v ≠ 0#w ↔ ∃ col, v.getMsbD col = true := by
  refine ⟨fun hne => ?_, fun ⟨col, hcol⟩ hzero => by simp [hzero] at hcol⟩
  by_contra hblank
  refine hne (BitVec.eq_of_getMsbD_eq fun col _ => ?_)
  rw [BitVec.getMsbD_zero, Bool.eq_false_of_not_eq_true fun hcol => hblank ⟨col, hcol⟩]

namespace FrameBuffer

/-- A draw is the exclusive OR of the sprite into the screen, pixel by pixel (R202). -/
theorem draw_pixel (f : FrameBuffer) (x0 top : Nat) (bytes : List Byte) (row col : Nat) :
    (f.draw x0 top bytes).1.pixel row col = (f.pixel row col ^^ drawnBit x0 top bytes row col) := by
  induction bytes generalizing f top with
  | nil => simp
  | cons b bytes ih =>
    rw [draw_cons, ih, drawRow_pixel]
    by_cases h : row = top
    · subst h
      rw [if_pos rfl, drawnBit_cons_top, drawnBit_above (Nat.lt_succ_self _), Bool.xor_false]
    · rw [if_neg h, drawnBit_cons_other h]

/-- One drawn row collides where it shows a pixel that was set (R202). -/
theorem drawRow_collides_iff (f : FrameBuffer) (x0 top : Nat) (b : Byte) :
    (f.drawRow x0 top b).2 = true ↔ ∃ col, f.pixel top col = true ∧ (spriteRow b x0).getMsbD col = true := by
  unfold drawRow pixel
  by_cases h : top < 32
  · simp only [h, dif_pos, decide_eq_true_eq, ne_zero_iff_exists_getMsbD, BitVec.getMsbD_and, Bool.and_eq_true]
  · simp [h]

/-- A draw collides where the sprite lands on a pixel that was set before it (R202): its bytes are drawn on different
rows. -/
theorem draw_collides_iff (f : FrameBuffer) (x0 top : Nat) (bytes : List Byte) :
    (f.draw x0 top bytes).2 = true ↔
      ∃ row col, f.pixel row col = true ∧ drawnBit x0 top bytes row col = true := by
  induction bytes generalizing f top with
  | nil => simp
  | cons b bytes ih =>
    rw [draw_cons, Bool.or_eq_true, ih, drawRow_collides_iff]
    constructor
    · rintro (⟨col, hset, hbit⟩ | ⟨row, col, hset, hbit⟩)
      · exact ⟨top, col, hset, by simp [drawnBit_cons_top, hbit, (pixel_inside hset).1]⟩
      · have hne : row ≠ top := by
          rintro rfl
          simp [drawnBit_above] at hbit
        rw [drawRow_pixel, if_neg hne] at hset
        exact ⟨row, col, hset, by rwa [drawnBit_cons_other hne]⟩
    · rintro ⟨row, col, hset, hbit⟩
      by_cases h : row = top
      · subst h
        rw [drawnBit_cons_top, Bool.and_eq_true] at hbit
        exact .inl ⟨col, hset, hbit.2⟩
      · rw [drawnBit_cons_other h] at hbit
        exact .inr ⟨row, col, by rwa [drawRow_pixel, if_neg h], hbit⟩

end FrameBuffer

/-! ### DRW, exclusive OR with collision flag -/

/-- Past its end a run read from memory is filled up with a byte of no pixel. -/
theorem Memory.getD_readBytes (m : Memory) (base count k : Nat) :
    (m.readBytes base count).getD k 0 = if k < count then m.read (base + k) else 0 := by
  have hlen := Memory.length_readBytes m base count
  split
  · rw [List.getD_eq_getElem _ _ (by omega), Memory.getElem_readBytes]
  · exact List.getD_eq_default _ _ (by omega)

section
variable {s t : State} {x y : Reg} {n : Nat}

/-- The framebuffer and the collision flag that DRW computes (R202). -/
def State.drawn (s : State) (x y : Reg) (n : Nat) : FrameBuffer × Bool :=
  s.fb.draw (spriteCol x s) (spriteTop y s) (s.mem.readBytes (baseAddr s) n)

/-- In range, DRW answers the state with the sprite drawn and the collision flag in `VF` (R202). -/
theorem exec_drwVxVyN_inside (hin : n = 0 ∨ s.i.toNat + n - 1 ≤ 0xFFF) :
    exec (.drwVxVyN x y n) s = .next ((s.setFb (s.drawn x y n).1).setV VF (flagByte (s.drawn x y n).2)) :=
  withinMemory_inside (by rw [baseAddr]; omega)

/-- Inside the grid the pixels that the drawn bytes land on are those that the statements name (R200). -/
theorem drawnBit_readBytes_iff {row col : Nat} (hrow : row < 32) (hcol : col < 64) :
    drawnBit (spriteCol x s) (spriteTop y s) (s.mem.readBytes (baseAddr s) n) row col = true ↔
      spritePixel s x y n row col := by
  simp only [drawnBit, spriteRow_pixel, Memory.getD_readBytes, Bool.and_eq_true, decide_eq_true_eq]
  constructor
  · rintro ⟨⟨htop, -⟩, ⟨hleft, hright, -⟩, hbit⟩
    have hr : row - spriteTop y s < n := by
      by_contra hr
      simp [hr] at hbit
    have hc : col - spriteCol x s < 8 := by omega
    rw [if_pos hr, BitVec.getMsbD, Bool.and_eq_true] at hbit
    exact ⟨_, _, hr, hc, (Nat.add_sub_of_le htop).symm, (Nat.add_sub_of_le hleft).symm, hbit.2⟩
  · rintro ⟨r, c, hr, hc, rfl, rfl, hbit⟩
    refine ⟨⟨Nat.le_add_right _ _, hrow⟩, ⟨Nat.le_add_right _ _, Nat.add_lt_add_left hc _, hcol⟩, ?_⟩
    rw [spriteTop, spriteCol, Nat.add_sub_cancel_left, Nat.add_sub_cancel_left, if_pos hr, BitVec.getMsbD,
      Bool.and_eq_true]
    exact ⟨decide_eq_true hc, hbit⟩

/-- Inside the grid DRW inverts the pixels that a sprite bit of 1 lands on (R202). -/
theorem State.drawn_pixel_landed {row col : Nat} (hrow : row < 32) (hcol : col < 64)
    (hpix : spritePixel s x y n row col) : (s.drawn x y n).1.pixel row col = !s.fb.pixel row col := by
  rw [State.drawn, FrameBuffer.draw_pixel, (drawnBit_readBytes_iff hrow hcol).mpr hpix, Bool.xor_true]

/-- Inside the grid DRW leaves every other pixel as it was (R202). -/
theorem State.drawn_pixel_other {row col : Nat} (hrow : row < 32) (hcol : col < 64)
    (hpix : ¬spritePixel s x y n row col) : (s.drawn x y n).1.pixel row col = s.fb.pixel row col := by
  rw [State.drawn, FrameBuffer.draw_pixel,
    Bool.eq_false_of_not_eq_true (mt (drawnBit_readBytes_iff hrow hcol).mp hpix), Bool.xor_false]

/-- The collision flag of DRW is that of the statements (R202). -/
theorem State.drawn_collides_iff : (s.drawn x y n).2 = true ↔ spriteCollides s x y n := by
  rw [State.drawn, FrameBuffer.draw_collides_iff]
  constructor
  · rintro ⟨row, col, hset, hbit⟩
    obtain ⟨hrow, hcol⟩ := FrameBuffer.pixel_inside hset
    exact ⟨row, col, hrow, hcol, (drawnBit_readBytes_iff hrow hcol).mp hbit, hset⟩
  · rintro ⟨row, col, hrow, hcol, hpix, hset⟩
    exact ⟨row, col, hset, (drawnBit_readBytes_iff hrow hcol).mpr hpix⟩

/-- Nothing changed but the framebuffer and one register. -/
theorem onlyScreenAndRegs_setFb_setV (s : State) (f : FrameBuffer) (x : Reg) (b : Byte) :
    onlyScreenAndRegs [x] s ((s.setFb f).setV x b) :=
  ⟨fun _ hr => State.setV_getV_other (s.setFb f) b (List.ne_of_not_mem_cons hr), rfl, rfl, ⟨rfl, rfl⟩, ⟨rfl, rfl⟩,
    ⟨rfl, rfl, rfl⟩, fun _ => rfl⟩

/-- Sprite pixels depend on the position registers, `I` and memory alone (R203). -/
theorem spritePixel_congr (hx : t.getV x = s.getV x) (hy : t.getV y = s.getV y) (hi : t.i = s.i)
    (hmem : sameMemory s t) (row col : Nat) : spritePixel t x y n row col ↔ spritePixel s x y n row col := by
  simp only [spritePixel, hx, hy, hi, hmem _]

end

/-- Settles O34: inside memory the pixels and the flag are those of the draw; beyond, the range check comes first. -/
theorem drawIsExclusiveOrWithCollision : Obligations.DrawIsExclusiveOrWithCollision := by
  intro s x y n
  refine ⟨fun hin => ⟨_, exec_drwVxVyN_inside hin, fun _ _ => State.drawn_pixel_landed,
    fun _ _ => State.drawn_pixel_other, fun hcoll => ?_, fun hcoll => ?_, onlyScreenAndRegs_setFb_setV s _ VF _⟩,
    fun hn hout => ?_⟩
  · rw [State.setV_getV_same, State.drawn_collides_iff.mpr hcoll]
    rfl
  · rw [State.setV_getV_same, Bool.eq_false_of_not_eq_true (mt State.drawn_collides_iff.mp hcoll)]
    rfl
  · exact withinMemory_outside hn (by rw [baseAddr]; omega)

/-! ### The same draw twice -/

/-- Two framebuffers with the same pixels inside the grid are equal: there are no others. -/
theorem FrameBuffer.ext_pixel_inside {f g : FrameBuffer}
    (h : ∀ row col, row < 32 → col < 64 → f.pixel row col = g.pixel row col) : f = g := by
  refine FrameBuffer.ext_pixel fun row col => ?_
  by_cases hin : row < 32 ∧ col < 64
  · exact h row col hin.1 hin.2
  · rw [Bool.eq_false_of_not_eq_true (mt FrameBuffer.pixel_inside hin),
      Bool.eq_false_of_not_eq_true (mt FrameBuffer.pixel_inside hin)]

/-- Settles O35: the second draw lands on the same pixels, each inverted twice, and finds set those that were unset. -/
theorem drawTwiceRestoresScreen : Obligations.DrawTwiceRestoresScreen := by
  intro s x y n hx hy hin
  obtain ⟨t, hfirst, hflip, hkeep, -, -, hregs, hi, -, -, -, -, hmem⟩ :=
    (drawIsExclusiveOrWithCollision s x y n).1 hin
  obtain ⟨u, hsecond, hflip', hkeep', hcoll, hnocoll, -⟩ :=
    (drawIsExclusiveOrWithCollision t x y n).1 (by rwa [hi])
  have hland (row col : Nat) : spritePixel t x y n row col ↔ spritePixel s x y n row col :=
    spritePixel_congr (hregs x (by simpa using hx)) (hregs y (by simpa using hy)) hi hmem row col
  have hcollides : spriteCollides t x y n ↔
      ∃ row col, row < 32 ∧ col < 64 ∧ spritePixel s x y n row col ∧ s.fb.pixel row col = false := by
    refine exists_congr fun row => exists_congr fun col => ?_
    refine and_congr_right fun hrow => and_congr_right fun hcol => ?_
    rw [hland]
    refine and_congr_right fun hpix => ?_
    rw [hflip row col hrow hcol hpix, Bool.not_eq_true']
  refine ⟨t, u, hfirst, hsecond, FrameBuffer.ext_pixel_inside fun row col hrow hcol => ?_,
    fun h => hcoll (hcollides.mpr h), fun h => hnocoll (mt hcollides.mp h)⟩
  by_cases hpix : spritePixel s x y n row col
  · rw [hflip' row col hrow hcol ((hland row col).mpr hpix), hflip row col hrow hcol hpix, Bool.not_not]
  · rw [hkeep' row col hrow hcol (mt (hland row col).mp hpix), hkeep row col hrow hcol hpix]

/-- The state that drawing the top row of the glyph of 0 from RESET leaves: the pixels (0, 0) to (0, 3) are set. -/
def glyphRowDrawn : State := State.reset.setFb (FrameBuffer.clear.set 0 0xF000000000000000#64)

/-- The screen of the counterexample to R203 (b) is one that DRW itself leaves (R202). -/
theorem exec_drwVxVyN_reset : exec (.drwVxVyN 0 1 1) State.reset = .next glyphRowDrawn := rfl

/-- Refutes O36: where the sprite stands on the screen already, the first of two more draws unsets it, so that the
second only sets pixels and `VF` is 0, although the sprite bit of (0, 0) landed inside the grid. -/
theorem not_secondDrawCollidesWheneverSpriteIsVisible : ¬ Obligations.SecondDrawCollidesWheneverSpriteIsVisible := by
  intro h
  have hflag := h glyphRowDrawn _ _ 0 1 1 (by decide) (by decide) rfl rfl
  have hland : spritePixel glyphRowDrawn 0 1 1 0 0 := ⟨0, 0, by decide, by decide, by decide, by decide, by decide⟩
  exact absurd (hflag.mpr ⟨0, 0, by decide, by decide, hland⟩) (by decide)

end Sys2Proof.Machine

/-! PROOFS. Family 45_keys_timers: the key skips (R210, R211), and the timers read and written (R212 to R214). -/

namespace Sys2Proof.Machine

/-! ### Key skips -/

/-- Settles O23: the key sampled is the one that the low nibble names, and SKNP skips under the opposite condition. -/
theorem keySkips : Obligations.KeySkips := by
  intro s x k hk
  have hkey : keyOperand x s = k := Fin.ext ((val_keyOperand x s).trans hk.symm)
  have hdown : s.getKey (keyOperand x s) = true ↔ s.getKey k = true := by rw [hkey]
  have hup : (!s.getKey (keyOperand x s)) = true ↔ s.getKey k = false := by rw [hkey, Bool.not_eq_true']
  exact ⟨⟨_, rfl, State.skipIf_pc_toNat hdown, onlyPc_skipIf s _⟩,
    ⟨_, rfl, State.skipIf_pc_toNat hup, onlyPc_skipIf s _⟩⟩

/-! ### Timers -/

theorem onlyTimers_update (s : State) (dt st : Byte) : onlyTimers s { s with dt := dt, st := st } :=
  ⟨fun _ _ => rfl, rfl, rfl, ⟨rfl, rfl⟩, fun _ _ => rfl, ⟨rfl, rfl, rfl⟩, fun _ => rfl⟩

/-- The output `sound_on` says whether the sound timer still runs (R238). -/
theorem soundOn_iff {s : State} : soundOn s = true ↔ s.st.toNat ≠ 0 :=
  decide_eq_true_iff.trans (not_congr BitVec.toNat_inj.symm)

/-- Settles O37: each write sets one timer and keeps the other, and `sound_on` is read from the new `ST`. -/
theorem timerWrites : Obligations.TimerWrites :=
  fun s x => ⟨⟨_, rfl, rfl, rfl, onlyTimers_update s (s.getV x) s.st⟩,
    ⟨_, rfl, rfl, rfl, soundOn_iff, onlyTimers_update s s.dt (s.getV x)⟩⟩

/-- Settles O38: a read of the delay timer writes one register and no timer. -/
theorem timerRead : Obligations.TimerRead :=
  fun s x => ⟨_, rfl, s.setV_getV_same x s.dt, onlyRegs_setV s x _⟩

end Sys2Proof.Machine

/-! PROOFS. Family 60_exceptions: the invariant over schedules (R240), the complete list of the errors of STEP with the
state and the result record that each leaves (R220 to R228), and the commands TICK, SETKEY and LOAD (R236 to R242). -/

namespace Sys2Proof.Machine

/-! ### Every command keeps the invariant -/

/-- No command that answers a next state breaks the invariant (R240): RESET starts from the reset state, and a LOAD that
is accepted ends inside memory (R242). -/
theorem State.Inv.perform {c : Command} {s t : State} (hs : s.Inv) (h : perform c s = .next t) : t.Inv := by
  cases c with
  | reset =>
    cases h
    obtain ⟨hmem, hpc, hstack⟩ := resetMeetsInvariant
    exact ⟨hmem, hpc, hstack⟩
  | load image =>
    obtain ⟨hfit, rfl⟩ := loadImage_next h
    exact ⟨Memory.wf_writeBytes image hs.memory (by omega), hs.pcBound, hs.stackBound⟩
  | step => exact stepKeepsInvariant s t hs h
  | tick | setKey => cases h; exact ⟨hs.memory, hs.pcBound, hs.stackBound⟩

/-- Settles O47: every command that answers keeps the invariant, and so does the advance that a failed STEP leaves. -/
theorem schedulesKeepInvariant : Obligations.SchedulesKeepInvariant := by
  intro cs s hs
  have hperform : ∀ c u t, State.Inv u → perform c u = .next t → t.Inv := fun _ _ _ => State.Inv.perform
  exact ⟨fun _ h => runSchedule_keeps hperform hs h,
    runIgnoringErrors_keeps hperform (fun _ hpc hu => hu.advance hpc) cs hs⟩

/-! ### The errors of STEP -/

section
variable {s : State}

/-- The access of a fetch is to the two bytes at `PC`, so that `PC + 1` is the highest address (R225). -/
theorem step_above_memory (h : 0xFFE < s.pc.toNat) :
    step s = .fault (.errAddressRange s.pc (max s.pc.toNat 0x1000) (s.pc.toNat + 1)) :=
  step_of_fetch_failed (fetchWord_outside h)

theorem step_of_illegal_word (hpc : s.pc.toNat ≤ 0xFFE) (h : decodeWord s.wordAtPc = none) :
    step s = .fault (.errUnknownInstruction s.pc s.wordAtPc) :=
  step_of_illegal (fetchWord_eq_wordAtPc hpc) h

theorem fault_eq_fault_iff {d e : Fault} : (.fault d : Outcome) = .fault e ↔ e = d := by
  rw [Host.Outcome.fault.injEq, eq_comm]

/-- An outcome that a test decides is an error exactly when the test finds it. -/
theorem fault_iff_of_test {o : Outcome} {p : Prop} {d e : Fault} (hfail : p → o = .fault d)
    (hnext : ¬p → ∃ t, o = .next t) : o = .fault e ↔ p ∧ e = d := by
  by_cases hp : p
  · rw [hfail hp, fault_eq_fault_iff]
    exact (and_iff_right hp).symm
  · obtain ⟨t, rfl⟩ := hnext hp
    exact ⟨nofun, fun h => absurd h.1 hp⟩

/-- An access from `I` fails exactly when it touches a byte above 0xFFF, and reports the fetch address, the first such
byte and the last byte of the access (R56, R220). -/
theorem withinMemory_advance_fault_iff {count : Nat} {t : State} {e : Fault} :
    withinMemory s.advance (baseAddr s.advance) count (.next t) = .fault e ↔
      1 ≤ count ∧ 0xFFF < s.i.toNat + count - 1 ∧
        e = .errAddressRange s.pc (max s.i.toNat 0x1000) (s.i.toNat + count - 1) := by
  have hhigh : 4096 < s.i.toNat + count ↔ 0xFFF < s.i.toNat + count - 1 := by omega
  rw [withinMemory_fault_iff, State.advance_fetchAddr, baseAddr, State.advance_i, hhigh, Nat.succ_le_iff]

/-- The execute stage fails exactly as R116 lists it. -/
theorem exec_advance_fault_iff {i : Instr} {e : Fault} : exec i s.advance = .fault e ↔ executeReports i s e := by
  cases i with
  | ret =>
    refine fault_iff_of_test (fun hempty => ?_) fun hactive =>
      ⟨_, exec_ret_active (s := s.advance) (Nat.pos_of_ne_zero hactive)⟩
    rw [exec_ret_empty (s := s.advance) hempty, State.advance_fetchAddr]
  | callNnn nnn =>
    refine fault_iff_of_test (fun hfull => ?_) fun hroom => ⟨_, exec_callNnn_room nnn ?_⟩
    · rw [exec_callNnn_full (s := s.advance) nnn hfull, State.advance_fetchAddr]
    · rw [State.advance_sp]; omega
  | ldFVx x =>
    refine fault_iff_of_test (fun hlarge => ?_) fun hdigit => ⟨_, if_neg hdigit⟩
    rw [← s.advance_fetchAddr]
    exact if_pos hlarge
  | drwVxVyN => exact withinMemory_advance_fault_iff
  -- these three touch a positive number of bytes
  | ldBVx | ldMemVx | ldVxMem => exact withinMemory_advance_fault_iff.trans (and_iff_right (by omega))
  -- every other instruction always answers a next state
  | _ => exact ⟨nofun, False.elim⟩

/-- STEP fails exactly as the list says, stage by stage (R228). -/
theorem step_fault_iff {e : Fault} : step s = .fault e ↔ stepReports s e := by
  unfold stepReports
  by_cases hpc : s.pc.toNat ≤ 0xFFE
  · have hnot : ¬0xFFE < s.pc.toNat := Nat.not_lt.mpr hpc
    cases hi : decodeWord s.wordAtPc with
    | none =>
      rw [step_of_illegal_word hpc hi, fault_eq_fault_iff]
      simp [hpc, hnot]
    | some i =>
      rw [step_of_decode (fetchWord_eq_wordAtPc hpc) hi, exec_advance_fault_iff]
      simp [hpc, hnot]
  · have hfail := Nat.lt_of_not_le hpc
    rw [step_above_memory hfail, fault_eq_fault_iff]
    simp [hpc, hfail]

/-- What a failed STEP leaves (R227). -/
theorem afterStep_of_fault {e : Fault} (h : step s = .fault e) : afterStep s = s.afterError := by
  simp only [afterStep, h]

/-- The record of a failed STEP has the error and no redraw (R117, R118). -/
theorem stepRecord_of_fault {e : Fault} (h : step s = .fault e) : stepRecord s =
    ⟨some e, s.pc, fetchWord s, ((fetchWord s).bind decodeWord).map Instr.rowNumber, false⟩ := by
  simp [stepRecord, h, errorOf]

end

/-- Settles O8: the three stages fail as listed, no instruction is refused, and every failure stands before the first
write of its instruction. -/
theorem stepErrorsAreExactlyTheListed : Obligations.StepErrorsAreExactlyTheListed :=
  fun _ => ⟨fun _ => step_fault_iff, fun _ => step_not_refused, fun _ => afterStep_of_fault⟩

/-- Settles O6: a word that no row selects does not decode. -/
theorem illegalWordIsReported : Obligations.IllegalWordIsReported := by
  refine ⟨fun s hpc hrows => ?_, (decodeWord_eq_none_iff 0x0000).mp rfl⟩
  have hnone : decodeWord s.wordAtPc = none := (decodeWord_eq_none_iff _).mpr hrows
  have hstep := step_of_illegal_word hpc hnone
  refine ⟨hstep, (afterStep_of_fault hstep).trans (if_neg (Nat.not_lt.mpr hpc)), ?_⟩
  rw [stepRecord_of_fault hstep, fetchWord_eq_wordAtPc hpc, Option.bind_some, hnone, Option.map_none]

/-- Settles O7: a fetch that fails yields no word, so that nothing is decoded. -/
theorem fetchAboveMemoryIsReported : Obligations.FetchAboveMemoryIsReported := by
  intro s hpc
  have hstep := step_above_memory hpc
  refine ⟨hstep, (afterStep_of_fault hstep).trans (if_pos hpc), ?_⟩
  rw [stepRecord_of_fault hstep, fetchWord_outside hpc, Option.bind_none, Option.map_none]

/-! ### TICK -/

@[simp] theorem toNat_tick_dt (s : State) : (tick s).dt.toNat = s.dt.toNat - 1 := toNat_countDown s.dt

@[simp] theorem toNat_tick_st (s : State) : (tick s).st.toNat = s.st.toNat - 1 := toNat_countDown s.st

/-- Settles O39: each timer is counted down by its own test. -/
theorem tickCountsDown : Obligations.TickCountsDown :=
  fun s => ⟨_, rfl, toNat_tick_dt s, toNat_tick_st s, onlyTimers_update s _ _⟩

/-- After `n` TICKs only the timers are other than before, each lower by `n` and clamped at 0 (R237). -/
theorem runSchedule_ticks (n : Nat) (s : State) : ∃ dt st : Byte,
    runSchedule (List.replicate n .tick) s = .next { s with dt := dt, st := st } ∧
      dt.toNat = s.dt.toNat - n ∧ st.toNat = s.st.toNat - n := by
  induction n generalizing s with
  | zero => exact ⟨s.dt, s.st, rfl, rfl, rfl⟩
  | succ n ih =>
    obtain ⟨dt, st, hrun, hdt, hst⟩ := ih (tick s)
    rw [toNat_tick_dt] at hdt
    rw [toNat_tick_st] at hst
    exact ⟨dt, st, hrun, by omega, by omega⟩

/-- Settles O40, by induction on the number of TICKs. -/
theorem timersAfterManyTicks : Obligations.TimersAfterManyTicks := by
  intro n s
  obtain ⟨dt, st, hrun, hdt, hst⟩ := runSchedule_ticks n s
  exact ⟨_, hrun, hdt, hst, onlyTimers_update s dt st⟩

/-! ### SETKEY -/

/-- Settles O41: one entry of the key vector is written. -/
theorem setKeyWritesOneFlag : Obligations.SetKeyWritesOneFlag :=
  fun s k pressed => ⟨_, rfl, (s.setKey_getKey k pressed k).trans (if_pos rfl),
    fun j hj => (s.setKey_getKey k pressed j).trans (if_neg hj), rfl, rfl, rfl, fun _ _ => rfl, rfl, ⟨rfl, rfl⟩,
    ⟨rfl, rfl⟩, fun _ _ => rfl, fun _ => rfl⟩

/-! ### LOAD -/

/-- Settles O42: 3584 bytes from 0x200 end at 0xFFF, so that an image that is accepted lies inside memory. -/
theorem loadStoresTheImage : Obligations.LoadStoresTheImage := by
  refine fun s image hm => ⟨fun hfit => ?_, fun hlarge => ?_⟩
  · have hin : 0x200 + image.length ≤ 4096 := by omega
    exact ⟨_, loadImage_fits hfit s, fun k hk => Memory.read_writeBytes_inside 0x200 image k hk hm hin,
      onlyMemory_writeBytes s 0x200 image, Memory.wf_writeBytes image hm hin⟩
  · have hrejected := loadImage_too_large hlarge s
    exact ⟨hrejected, by simp only [afterCommand, hrejected]⟩

end Sys2Proof.Machine

/-! PROOFS. Family 70_reset_and_hazards: RESET (R36, R260), the launch of a program by RESET and LOAD (R261, R264), and
the end of a run (R266). -/

namespace Sys2Proof.Machine

/-! ### The end of a run -/

/-- Settles O10: the jump replaces the advanced `PC`, the one field that the fetch changed, by the `PC` it came from. -/
theorem endedRunIsAFixedPoint : Obligations.EndedRunIsAFixedPoint := by
  rintro s ⟨-, nnn, hfetch, hself⟩
  have htarget : zextAddr nnn = s.pc := BitVec.eq_of_toNat_eq ((toNat_zextAddr nnn).trans hself)
  calc step s
    _ = exec (.jpNnn nnn) s.advance := step_of_decode hfetch (decodeWord_encode rfl)
    _ = .next (s.advance.setPc s.pc) := by rw [← htarget]; rfl
    _ = .next s := rfl

/-! ### RESET -/

section
variable (s : State)

@[simp] theorem resetCommand_mem : (resetCommand s).mem = [] := rfl

@[simp] theorem resetCommand_getV (r : Reg) : (resetCommand s).getV r = 0x00#8 :=
  Vector.getElem_replicate _

@[simp] theorem resetCommand_getKey (k : Reg) : (resetCommand s).getKey k = false :=
  Vector.getElem_replicate _

@[simp] theorem resetCommand_stack_getElem (k : Fin 16) : (resetCommand s).stack[k.val] = 0x0000#16 :=
  Vector.getElem_replicate _

/-- The screen of RESET is the one that CLS leaves (R36, R201). -/
@[simp] theorem resetCommand_fb : (resetCommand s).fb = FrameBuffer.clear := rfl

end

/-- Inside the glyph table memory reads the table's bytes after RESET (R53). -/
theorem Memory.unlisted_glyph {a : Nat} (h : a < glyphTable.length) : Memory.unlisted a = glyphTable[a] :=
  List.getD_eq_getElem glyphTable 0x00#8 h

/-- Settles O43: RESET lists nothing in memory, so that every byte is what its address reads as unlisted. -/
theorem resetRestoresEverything : Obligations.ResetRestoresEverything := by
  intro s
  have hv (r : Reg) : ((resetCommand s).getV r).toNat = 0 := by simp
  have hstack (k : Fin 16) : (resetCommand s).stack[k.val].toNat = 0 := by simp
  have hpixels (row col : Nat) : (resetCommand s).fb.pixel row col = false := by simp
  have hglyphs (a : Nat) (h : a < glyphTable.length) : (resetCommand s).readByte a = glyphTable[a] :=
    Memory.unlisted_glyph h
  have hzeros (a : Nat) (h : 0x50 ≤ a) : ((resetCommand s).readByte a).toNat = 0 :=
    congrArg BitVec.toNat (Memory.unlisted_above_glyphs h)
  exact ⟨_, rfl, rfl, rfl, rfl, rfl, rfl, hv, resetCommand_getKey s, hstack, hpixels, hglyphs, rfl, hzeros, rfl, rfl⟩

/-! ### The launch -/

/-- RESET and then LOAD of an image that fits leave the reset state with the image stored over the reset memory (R264). -/
theorem runSchedule_reset_load {image : List Byte} (hfit : image.length ≤ 3584) (s : State) :
    runSchedule [.reset, .load image] s = .next ((resetCommand s).setMem (Memory.writeBytes [] 0x200 image)) := by
  simp only [runSchedule, perform, loadImage_fits hfit, resetCommand_mem]

/-- Settles O44: the fetch at 0x200 reads the bytes 0 and 1 of the run that LOAD wrote, and past that run memory is still
the reset memory. -/
theorem launchFetchesFirstImageWord : Obligations.LaunchFetchesFirstImageWord := by
  intro s hi lo rest hfit
  have hread := fun k hk =>
    Memory.read_writeBytes_inside 0x200 (hi :: lo :: rest) k hk Memory.wf_nil (by omega)
  have hhigh := hread 0 (Nat.succ_pos _)
  have hlow := hread 1 (Nat.succ_lt_succ (Nat.succ_pos _))
  refine ⟨_, runSchedule_reset_load hfit s, rfl, ?_, fun a ha => ?_⟩
  · have hpc : (0x0200#16).toNat ≤ 0xFFE := by decide
    exact (fetchWord_inside hpc).trans (congrArg some (congrArg₂ wordOfBytes hhigh hlow))
  · have hpast : Memory.read (Memory.writeBytes [] 0x200 (hi :: lo :: rest)) a = 0x00#8 :=
      (Memory.read_writeBytes_outside [] 0x200 _ (.inr ha)).trans (Memory.unlisted_above_glyphs (by omega))
    exact congrArg BitVec.toNat hpast

end Sys2Proof.Machine
